-- ==== Sys2Proof/Word.lean ====
section
/-! DEFINITION. The word types of the ch8-rs core: the u8 and u16 values of rule R12, the register index
of rule R31, the key snapshot of rule R53 and the clock sample of rule R600. -/

namespace Sys2Proof

/-- An 8-bit value (`u8` of rule R12). -/
abbrev Byte := BitVec 8

/-- A 16-bit value (`u16` of rule R12): an opcode word, a data word, PC, I or a stack entry. -/
abbrev Word := BitVec 16

/-- The index of a general register V0..VF (rule R31). -/
abbrev Reg := Fin 16

/-- Sixteen key states, key k for the hexadecimal digit k, true = pressed (rule R53). -/
abbrev Keys := Vector Bool 16

/-- An instant or a duration: an exact rational number of seconds (rule R600). -/
abbrev Seconds := Rat

/-- A colour value the core does not interpret (rules R49 and R541). -/
abbrev Colour := Nat

end Sys2Proof
end

