-- ==== Sys2Proof/Syntax.lean ====
section
/-! DEFINITION. The abstract syntax: one constructor per row of spec/opcode_table.json (rule R116). A
register field is a register index; an immediate is a natural number, and `Instr.wf` is the assembler's
check that it fits its field (rule R124). -/

namespace Sys2Proof

/-- The 46 instructions of rule R116, in the table's order. -/
inductive Instr where
  /-- 00CN `SCD N`: scroll down N rows (R512). -/
  | scd (n : Nat)
  /-- 00DN `SCU N`: scroll up N rows (R513). -/
  | scu (n : Nat)
  /-- 00E0 `CLS`: clear the active planes (R503). -/
  | cls
  /-- 00EE `RET`: return from a call (R212). -/
  | ret
  /-- 00FB `SCR`: scroll right 4 pixels (R514). -/
  | scr
  /-- 00FC `SCL`: scroll left 4 pixels (R515). -/
  | scl
  /-- 00FE `LOW`: 64 x 32 mode (R517). -/
  | low
  /-- 00FF `HIGH`: 128 x 64 mode (R518). -/
  | high
  /-- 1NNN `JP NNN` (R210). -/
  | jp (nnn : Nat)
  /-- 2NNN `CALL NNN` (R211). -/
  | call (nnn : Nat)
  /-- 3XNN `SE VX, NN`: skip if equal (R214). -/
  | seImm (x : Reg) (nn : Nat)
  /-- 4XNN `SNE VX, NN`: skip if not equal (R215). -/
  | sneImm (x : Reg) (nn : Nat)
  /-- 5XY0 `SE VX, VY`: skip if equal (R216). -/
  | seReg (x y : Reg)
  /-- 5XY2 `LD [I], VX-VY`: store a register range (R409). -/
  | stRange (x y : Reg)
  /-- 5XY3 `LD VX-VY, [I]`: load a register range (R410). -/
  | ldRange (x y : Reg)
  /-- 6XNN `LD VX, NN` (R301). -/
  | ldImm (x : Reg) (nn : Nat)
  /-- 7XNN `ADD VX, NN` (R302). -/
  | addImm (x : Reg) (nn : Nat)
  /-- 8XY0 `LD VX, VY` (R303). -/
  | ldReg (x y : Reg)
  /-- 8XY1 `OR VX, VY` (R305). -/
  | orReg (x y : Reg)
  /-- 8XY2 `AND VX, VY` (R306). -/
  | andReg (x y : Reg)
  /-- 8XY3 `XOR VX, VY` (R307). -/
  | xorReg (x y : Reg)
  /-- 8XY4 `ADD VX, VY` with carry into VF (R308). -/
  | addReg (x y : Reg)
  /-- 8XY5 `SUB VX, VY` (R309). -/
  | subReg (x y : Reg)
  /-- 8XY6 `SHR VX, VY` (R310). -/
  | shr (x y : Reg)
  /-- 8XY7 `SUBN VX, VY` (R311). -/
  | subn (x y : Reg)
  /-- 8XYE `SHL VX, VY` (R312). -/
  | shl (x y : Reg)
  /-- 9XY0 `SNE VX, VY`: skip if different (R217). -/
  | sneReg (x y : Reg)
  /-- ANNN `LD I, NNN` (R401). -/
  | ldI (nnn : Nat)
  /-- BNNN `JP V0, NNN` (R213). -/
  | jpV0 (nnn : Nat)
  /-- CXNN `RND VX, NN` (R314). -/
  | rnd (x : Reg) (nn : Nat)
  /-- DXYN `DRW VX, VY, N` (R510); N = 0 is the 16 x 16 form. -/
  | drw (x y : Reg) (n : Nat)
  /-- EX9E `SKP VX`: skip if key VX is pressed (R620). -/
  | skp (x : Reg)
  /-- EXA1 `SKNP VX`: skip if key VX is not pressed (R621). -/
  | sknp (x : Reg)
  /-- F000 NNNN `LD I, NNNN`: the one 4-byte instruction (R402). -/
  | ldILong (nnnn : Nat)
  /-- FX01 `PLANE X`: the X field is a 4-bit plane mask, not a register (R530, R113). -/
  | plane (mask : Nat)
  /-- F002 `AUDIO`: load the pattern buffer (R615). -/
  | audio
  /-- FX07 `LD VX, DT` (R610). -/
  | ldVxDt (x : Reg)
  /-- FX0A `LD VX, K`: wait for a key press (R625). -/
  | ldVxK (x : Reg)
  /-- FX15 `LD DT, VX` (R611). -/
  | ldDtVx (x : Reg)
  /-- FX18 `LD ST, VX` (R612). -/
  | ldStVx (x : Reg)
  /-- FX1E `ADD I, VX` (R403). -/
  | addI (x : Reg)
  /-- FX29 `LD F, VX` (R404). -/
  | ldF (x : Reg)
  /-- FX30 `LD HF, VX` (R405). -/
  | ldHf (x : Reg)
  /-- FX33 `LD B, VX` (R406). -/
  | ldB (x : Reg)
  /-- FX55 `LD [I], VX`: store V0..VX (R407). -/
  | stRegs (x : Reg)
  /-- FX65 `LD VX, [I]`: load V0..VX (R408). -/
  | ldRegs (x : Reg)
  deriving DecidableEq, Repr

end Sys2Proof
end

