-- ==== Sys2Proof/WellFormed.lean ====
section
/-! DEFINITION. Well-formedness of an instruction: what rule R124 has an assembler refuse. -/

namespace Sys2Proof

/-- N is a 4-bit count (R124: "N > 15" is refused, and so is `DRW` with N written as 16). -/
def fitsN (n : Nat) : Bool := n ≤ 15

/-- NN is an 8-bit immediate (R124: "NN > 255" is refused). -/
def fitsNN (n : Nat) : Bool := n ≤ 255

/-- NNN is a 12-bit address (R124: "NNN > 0xFFF" is refused). -/
def fitsNNN (n : Nat) : Bool := n ≤ 0xFFF

/-- NNNN is a 16-bit address (R124: "NNNN > 0xFFFF" is refused). -/
def fitsNNNN (n : Nat) : Bool := n ≤ 0xFFFF

/-- Every immediate of the instruction fits its field. Register operands always do, by their type. -/
def Instr.wf : Instr → Bool
  | .scd n => fitsN n
  | .scu n => fitsN n
  | .cls => true
  | .ret => true
  | .scr => true
  | .scl => true
  | .low => true
  | .high => true
  | .jp nnn => fitsNNN nnn
  | .call nnn => fitsNNN nnn
  | .seImm _ nn => fitsNN nn
  | .sneImm _ nn => fitsNN nn
  | .seReg _ _ => true
  | .stRange _ _ => true
  | .ldRange _ _ => true
  | .ldImm _ nn => fitsNN nn
  | .addImm _ nn => fitsNN nn
  | .ldReg _ _ => true
  | .orReg _ _ => true
  | .andReg _ _ => true
  | .xorReg _ _ => true
  | .addReg _ _ => true
  | .subReg _ _ => true
  | .shr _ _ => true
  | .subn _ _ => true
  | .shl _ _ => true
  | .sneReg _ _ => true
  | .ldI nnn => fitsNNN nnn
  | .jpV0 nnn => fitsNNN nnn
  | .rnd _ nn => fitsNN nn
  | .drw _ _ n => fitsN n
  | .skp _ => true
  | .sknp _ => true
  | .ldILong nnnn => fitsNNNN nnnn
  | .plane mask => fitsN mask
  | .audio => true
  | .ldVxDt _ => true
  | .ldVxK _ => true
  | .ldDtVx _ => true
  | .ldStVx _ => true
  | .addI _ => true
  | .ldF _ => true
  | .ldHf _ => true
  | .ldB _ => true
  | .stRegs _ => true
  | .ldRegs _ => true

end Sys2Proof
end

