-- ==== Sys2Proof/Decode.lean ====
section
/-! DEFINITION. Decoding and encoding (30_encoding.md). `decode` is total on any list of bytes and rejects
by name; `encode` is written from the same table (R116, R124). -/

namespace Sys2Proof

/-! ### Words, bytes and fields -/

/-- Two bytes as one word, the byte at the lower address in the upper half (R80, R81). -/
def bigEndian (hi lo : Byte) : Word := BitVec.ofNat 16 (hi.toNat * 256 + lo.toNat)

/-- The upper byte of a word. -/
def highByte (w : Word) : Byte := BitVec.ofNat 8 (w.toNat / 256)

/-- The lower byte of a word. -/
def lowByte (w : Word) : Byte := BitVec.ofNat 8 w.toNat

/-- nibble0, bits 15:12: the opcode group (R111). -/
def nibble0 (w : Word) : Nat := w.toNat / 4096

/-- nibble1, bits 11:8: X (R111). -/
def nibble1 (w : Word) : Nat := w.toNat / 256 % 16

/-- nibble2, bits 7:4: Y (R111). -/
def nibble2 (w : Word) : Nat := w.toNat / 16 % 16

/-- nibble3, bits 3:0: N (R111). -/
def nibble3 (w : Word) : Nat := w.toNat % 16

/-- The word with the given four nibbles. -/
def ofNibbles (g x y n : Nat) : Word := BitVec.ofNat 16 (g * 4096 + x * 256 + y * 16 + n)

/-- The register a nibble names. -/
def regOf (x : Nat) : Reg := Fin.ofNat 16 x

/-- NN from its two nibbles (R111, R113). -/
def immNN (y n : Nat) : Nat := y * 16 + n

/-- NNN from its three nibbles (R111, R113). -/
def immNNN (x y n : Nat) : Nat := x * 256 + y * 16 + n

/-! ### Decoding -/

/-- Group 0 (R116, R118): only words whose X nibble is 0 are legal. -/
def decodeGroup0 (x y n : Nat) : Option Instr :=
  match x, y with
  | 0, 0xC => some (.scd n)
  | 0, 0xD => some (.scu n)
  | 0, 0xE =>
    match n with
    | 0x0 => some .cls
    | 0xE => some .ret
    | _ => none
  | 0, 0xF =>
    match n with
    | 0xB => some .scr
    | 0xC => some .scl
    | 0xE => some .low
    | 0xF => some .high
    | _ => none
  | _, _ => none

/-- Group 5 (R116, R118). -/
def decodeGroup5 (x y n : Nat) : Option Instr :=
  match n with
  | 0x0 => some (.seReg (regOf x) (regOf y))
  | 0x2 => some (.stRange (regOf x) (regOf y))
  | 0x3 => some (.ldRange (regOf x) (regOf y))
  | _ => none

/-- Group 8 (R116, R118). -/
def decodeGroup8 (x y n : Nat) : Option Instr :=
  match n with
  | 0x0 => some (.ldReg (regOf x) (regOf y))
  | 0x1 => some (.orReg (regOf x) (regOf y))
  | 0x2 => some (.andReg (regOf x) (regOf y))
  | 0x3 => some (.xorReg (regOf x) (regOf y))
  | 0x4 => some (.addReg (regOf x) (regOf y))
  | 0x5 => some (.subReg (regOf x) (regOf y))
  | 0x6 => some (.shr (regOf x) (regOf y))
  | 0x7 => some (.subn (regOf x) (regOf y))
  | 0xE => some (.shl (regOf x) (regOf y))
  | _ => none

/-- Group 9 (R116, R118). -/
def decodeGroup9 (x y n : Nat) : Option Instr :=
  match n with
  | 0x0 => some (.sneReg (regOf x) (regOf y))
  | _ => none

/-- Group E (R116, R118), by the low byte. -/
def decodeGroupE (x y n : Nat) : Option Instr :=
  match y, n with
  | 0x9, 0xE => some (.skp (regOf x))
  | 0xA, 0x1 => some (.sknp (regOf x))
  | _, _ => none

/-- Group F (R116, R118), by the low byte, but for the 4-byte F000 (see `decode`). F002 needs X = 0. -/
def decodeGroupF (x y n : Nat) : Option Instr :=
  match y, n with
  | 0x0, 0x1 => some (.plane x)
  | 0x0, 0x2 => if x = 0 then some .audio else none
  | 0x0, 0x7 => some (.ldVxDt (regOf x))
  | 0x0, 0xA => some (.ldVxK (regOf x))
  | 0x1, 0x5 => some (.ldDtVx (regOf x))
  | 0x1, 0x8 => some (.ldStVx (regOf x))
  | 0x1, 0xE => some (.addI (regOf x))
  | 0x2, 0x9 => some (.ldF (regOf x))
  | 0x3, 0x0 => some (.ldHf (regOf x))
  | 0x3, 0x3 => some (.ldB (regOf x))
  | 0x5, 0x5 => some (.stRegs (regOf x))
  | 0x6, 0x5 => some (.ldRegs (regOf x))
  | _, _ => none

/-- The 2-byte instructions by their four nibbles: group by the top nibble first (R115). -/
def decodeNibbles (g x y n : Nat) : Option Instr :=
  match g with
  | 0x0 => decodeGroup0 x y n
  | 0x1 => some (.jp (immNNN x y n))
  | 0x2 => some (.call (immNNN x y n))
  | 0x3 => some (.seImm (regOf x) (immNN y n))
  | 0x4 => some (.sneImm (regOf x) (immNN y n))
  | 0x5 => decodeGroup5 x y n
  | 0x6 => some (.ldImm (regOf x) (immNN y n))
  | 0x7 => some (.addImm (regOf x) (immNN y n))
  | 0x8 => decodeGroup8 x y n
  | 0x9 => decodeGroup9 x y n
  | 0xA => some (.ldI (immNNN x y n))
  | 0xB => some (.jpV0 (immNNN x y n))
  | 0xC => some (.rnd (regOf x) (immNN y n))
  | 0xD => some (.drw (regOf x) (regOf y) n)
  | 0xE => decodeGroupE x y n
  | 0xF => decodeGroupF x y n
  | _ => none

/-- The 2-byte instruction of a word; `none` for an illegal word and for 0xF000, which needs a second word. -/
def decodeWord (w : Word) : Option Instr :=
  decodeNibbles (nibble0 w) (nibble1 w) (nibble2 w) (nibble3 w)

/-- The first word of the one 4-byte instruction (R110, R120). -/
def longWord : Word := 0xF000

/-- The outcome of decoding a list of bytes. -/
inductive Decoded where
  /-- an instruction, and the bytes after it -/
  | instr (i : Instr) (rest : List Byte)
  /-- a word that matches no row of R116 (R118) -/
  | illegal (w : Word)
  /-- fewer than two bytes: there is no opcode word -/
  | noWord
  /-- 0xF000 without a whole second word (R402) -/
  | noSecondWord
  deriving DecidableEq, Repr

/-- Decode the instruction at the head of a list of bytes (R110, R115, R119: the second word of F000 is
data and is never decoded). -/
def decode : List Byte → Decoded
  | b0 :: b1 :: rest =>
    if bigEndian b0 b1 = longWord then
      match rest with
      | b2 :: b3 :: rest' => .instr (.ldILong (bigEndian b2 b3).toNat) rest'
      | _ => .noSecondWord
    else
      match decodeWord (bigEndian b0 b1) with
      | some i => .instr i rest
      | none => .illegal (bigEndian b0 b1)
  | _ => .noWord

/-! ### Encoding -/

/-- g, NNN: a group nibble and a 12-bit field (R112). -/
def encNNN (g nnn : Nat) : Word := ofNibbles g (nnn / 256) (nnn / 16 % 16) (nnn % 16)

/-- g, X, NN (R112). -/
def encXNN (g : Nat) (x : Reg) (nn : Nat) : Word := ofNibbles g x.val (nn / 16) (nn % 16)

/-- g, X, Y, sub (R112). -/
def encXY (g : Nat) (x y : Reg) (sub : Nat) : Word := ofNibbles g x.val y.val sub

/-- g, X, sub-byte given as its two nibbles (R112). -/
def encX (g : Nat) (x : Reg) (s1 s0 : Nat) : Word := ofNibbles g x.val s1 s0

/-- The first (or only) word of an instruction, from the `match` column of R116 with its fields placed
(R124). -/
def opcodeOf : Instr → Word
  | .scd n => ofNibbles 0x0 0x0 0xC n
  | .scu n => ofNibbles 0x0 0x0 0xD n
  | .cls => ofNibbles 0x0 0x0 0xE 0x0
  | .ret => ofNibbles 0x0 0x0 0xE 0xE
  | .scr => ofNibbles 0x0 0x0 0xF 0xB
  | .scl => ofNibbles 0x0 0x0 0xF 0xC
  | .low => ofNibbles 0x0 0x0 0xF 0xE
  | .high => ofNibbles 0x0 0x0 0xF 0xF
  | .jp nnn => encNNN 0x1 nnn
  | .call nnn => encNNN 0x2 nnn
  | .seImm x nn => encXNN 0x3 x nn
  | .sneImm x nn => encXNN 0x4 x nn
  | .seReg x y => encXY 0x5 x y 0x0
  | .stRange x y => encXY 0x5 x y 0x2
  | .ldRange x y => encXY 0x5 x y 0x3
  | .ldImm x nn => encXNN 0x6 x nn
  | .addImm x nn => encXNN 0x7 x nn
  | .ldReg x y => encXY 0x8 x y 0x0
  | .orReg x y => encXY 0x8 x y 0x1
  | .andReg x y => encXY 0x8 x y 0x2
  | .xorReg x y => encXY 0x8 x y 0x3
  | .addReg x y => encXY 0x8 x y 0x4
  | .subReg x y => encXY 0x8 x y 0x5
  | .shr x y => encXY 0x8 x y 0x6
  | .subn x y => encXY 0x8 x y 0x7
  | .shl x y => encXY 0x8 x y 0xE
  | .sneReg x y => encXY 0x9 x y 0x0
  | .ldI nnn => encNNN 0xA nnn
  | .jpV0 nnn => encNNN 0xB nnn
  | .rnd x nn => encXNN 0xC x nn
  | .drw x y n => encXY 0xD x y n
  | .skp x => encX 0xE x 0x9 0xE
  | .sknp x => encX 0xE x 0xA 0x1
  | .ldILong _ => longWord
  | .plane mask => ofNibbles 0xF mask 0x0 0x1
  | .audio => ofNibbles 0xF 0x0 0x0 0x2
  | .ldVxDt x => encX 0xF x 0x0 0x7
  | .ldVxK x => encX 0xF x 0x0 0xA
  | .ldDtVx x => encX 0xF x 0x1 0x5
  | .ldStVx x => encX 0xF x 0x1 0x8
  | .addI x => encX 0xF x 0x1 0xE
  | .ldF x => encX 0xF x 0x2 0x9
  | .ldHf x => encX 0xF x 0x3 0x0
  | .ldB x => encX 0xF x 0x3 0x3
  | .stRegs x => encX 0xF x 0x5 0x5
  | .ldRegs x => encX 0xF x 0x6 0x5

/-- The data words after the first: NNNN for F000 NNNN, none for every other instruction (R110). -/
def dataWords : Instr → List Word
  | .ldILong nnnn => [BitVec.ofNat 16 nnnn]
  | .scd _ | .scu _ | .cls | .ret | .scr | .scl | .low | .high | .jp _ | .call _ | .seImm _ _
  | .sneImm _ _ | .seReg _ _ | .stRange _ _ | .ldRange _ _ | .ldImm _ _ | .addImm _ _ | .ldReg _ _
  | .orReg _ _ | .andReg _ _ | .xorReg _ _ | .addReg _ _ | .subReg _ _ | .shr _ _ | .subn _ _ | .shl _ _
  | .sneReg _ _ | .ldI _ | .jpV0 _ | .rnd _ _ | .drw _ _ _ | .skp _ | .sknp _ | .plane _ | .audio
  | .ldVxDt _ | .ldVxK _ | .ldDtVx _ | .ldStVx _ | .addI _ | .ldF _ | .ldHf _ | .ldB _ | .stRegs _
  | .ldRegs _ => []

/-- The words of a well-formed instruction, first word first (R124). -/
def encode (i : Instr) : List Word := opcodeOf i :: dataWords i

/-- Words as the hardware stores them: each big-endian, the first at the lowest address (R80, R81). -/
def wordBytes : List Word → List Byte
  | [] => []
  | w :: ws => highByte w :: lowByte w :: wordBytes ws

/-- The bytes of an instruction in memory. -/
def encodeBytes (i : Instr) : List Byte := wordBytes (encode i)

/-! ### The opcode table as data (R116) -/

/-- One row of R116: a word matches it when `w &&& mask = pattern` (R115). -/
structure OpcodeRow where
  mnemonic : String
  mask : Word
  pattern : Word
  deriving DecidableEq, Repr

/-- The rows of groups 0 to 7. -/
def opcodeRowsLow : List OpcodeRow :=
  [⟨"SCD_N", 0xFFF0, 0x00C0⟩, ⟨"SCU_N", 0xFFF0, 0x00D0⟩, ⟨"CLS", 0xFFFF, 0x00E0⟩,
   ⟨"RET", 0xFFFF, 0x00EE⟩, ⟨"SCR", 0xFFFF, 0x00FB⟩, ⟨"SCL", 0xFFFF, 0x00FC⟩,
   ⟨"LOW", 0xFFFF, 0x00FE⟩, ⟨"HIGH", 0xFFFF, 0x00FF⟩, ⟨"JP_NNN", 0xF000, 0x1000⟩,
   ⟨"CALL_NNN", 0xF000, 0x2000⟩, ⟨"SE_VX__NN", 0xF000, 0x3000⟩, ⟨"SNE_VX__NN", 0xF000, 0x4000⟩,
   ⟨"SE_VX__VY", 0xF00F, 0x5000⟩, ⟨"LD__I___VX-VY", 0xF00F, 0x5002⟩, ⟨"LD_VX-VY___I", 0xF00F, 0x5003⟩,
   ⟨"LD_VX__NN", 0xF000, 0x6000⟩, ⟨"ADD_VX__NN", 0xF000, 0x7000⟩]

/-- The rows of groups 8 to E. -/
def opcodeRowsMid : List OpcodeRow :=
  [⟨"LD_VX__VY", 0xF00F, 0x8000⟩, ⟨"OR_VX__VY", 0xF00F, 0x8001⟩, ⟨"AND_VX__VY", 0xF00F, 0x8002⟩,
   ⟨"XOR_VX__VY", 0xF00F, 0x8003⟩, ⟨"ADD_VX__VY", 0xF00F, 0x8004⟩, ⟨"SUB_VX__VY", 0xF00F, 0x8005⟩,
   ⟨"SHR_VX__VY", 0xF00F, 0x8006⟩, ⟨"SUBN_VX__VY", 0xF00F, 0x8007⟩, ⟨"SHL_VX__VY", 0xF00F, 0x800E⟩,
   ⟨"SNE_VX__VY", 0xF00F, 0x9000⟩, ⟨"LD_I__NNN", 0xF000, 0xA000⟩, ⟨"JP_V0__NNN", 0xF000, 0xB000⟩,
   ⟨"RND_VX__NN", 0xF000, 0xC000⟩, ⟨"DRW_VX__VY__N", 0xF000, 0xD000⟩, ⟨"SKP_VX", 0xF0FF, 0xE09E⟩,
   ⟨"SKNP_VX", 0xF0FF, 0xE0A1⟩]

/-- The rows of group F. -/
def opcodeRowsHigh : List OpcodeRow :=
  [⟨"LD_I__NNNN", 0xFFFF, 0xF000⟩, ⟨"PLANE_X", 0xF0FF, 0xF001⟩, ⟨"AUDIO", 0xFFFF, 0xF002⟩,
   ⟨"LD_VX__DT", 0xF0FF, 0xF007⟩, ⟨"LD_VX__K", 0xF0FF, 0xF00A⟩, ⟨"LD_DT__VX", 0xF0FF, 0xF015⟩,
   ⟨"LD_ST__VX", 0xF0FF, 0xF018⟩, ⟨"ADD_I__VX", 0xF0FF, 0xF01E⟩, ⟨"LD_F__VX", 0xF0FF, 0xF029⟩,
   ⟨"LD_HF__VX", 0xF0FF, 0xF030⟩, ⟨"LD_B__VX", 0xF0FF, 0xF033⟩, ⟨"LD__I___VX", 0xF0FF, 0xF055⟩,
   ⟨"LD_VX___I", 0xF0FF, 0xF065⟩]

/-- The whole table of R116. -/
def opcodeRows : List OpcodeRow := opcodeRowsLow ++ opcodeRowsMid ++ opcodeRowsHigh

/-- The row of R116 an instruction belongs to, by the table's mnemonic. -/
def Instr.mnemonic : Instr → String
  | .scd _ => "SCD_N"
  | .scu _ => "SCU_N"
  | .cls => "CLS"
  | .ret => "RET"
  | .scr => "SCR"
  | .scl => "SCL"
  | .low => "LOW"
  | .high => "HIGH"
  | .jp _ => "JP_NNN"
  | .call _ => "CALL_NNN"
  | .seImm _ _ => "SE_VX__NN"
  | .sneImm _ _ => "SNE_VX__NN"
  | .seReg _ _ => "SE_VX__VY"
  | .stRange _ _ => "LD__I___VX-VY"
  | .ldRange _ _ => "LD_VX-VY___I"
  | .ldImm _ _ => "LD_VX__NN"
  | .addImm _ _ => "ADD_VX__NN"
  | .ldReg _ _ => "LD_VX__VY"
  | .orReg _ _ => "OR_VX__VY"
  | .andReg _ _ => "AND_VX__VY"
  | .xorReg _ _ => "XOR_VX__VY"
  | .addReg _ _ => "ADD_VX__VY"
  | .subReg _ _ => "SUB_VX__VY"
  | .shr _ _ => "SHR_VX__VY"
  | .subn _ _ => "SUBN_VX__VY"
  | .shl _ _ => "SHL_VX__VY"
  | .sneReg _ _ => "SNE_VX__VY"
  | .ldI _ => "LD_I__NNN"
  | .jpV0 _ => "JP_V0__NNN"
  | .rnd _ _ => "RND_VX__NN"
  | .drw _ _ _ => "DRW_VX__VY__N"
  | .skp _ => "SKP_VX"
  | .sknp _ => "SKNP_VX"
  | .ldILong _ => "LD_I__NNNN"
  | .plane _ => "PLANE_X"
  | .audio => "AUDIO"
  | .ldVxDt _ => "LD_VX__DT"
  | .ldVxK _ => "LD_VX__K"
  | .ldDtVx _ => "LD_DT__VX"
  | .ldStVx _ => "LD_ST__VX"
  | .addI _ => "ADD_I__VX"
  | .ldF _ => "LD_F__VX"
  | .ldHf _ => "LD_HF__VX"
  | .ldB _ => "LD_B__VX"
  | .stRegs _ => "LD__I___VX"
  | .ldRegs _ => "LD_VX___I"

/-- A word matches a row (R115). -/
def OpcodeRow.accepts (r : OpcodeRow) (w : Word) : Bool := w &&& r.mask == r.pattern

/-! ### The host's view of the decoder -/

/-- The bytes, in memory order, of the two words whose bits are `w`, numbered as spec/opcode_table.json
numbers them: the first word is bits 15..0, the second bits 31..16; bits from `nbits` up are 0. -/
def tableBytes (nbits w : Nat) : List Byte :=
  wordBytes [BitVec.ofNat 16 (w % 2 ^ nbits), BitVec.ofNat 16 (w % 2 ^ nbits / 65536)]

/-- The instruction the decoder reads from the bits of a table row; `none` where it refuses. -/
def decodeTableWord (nbits w : Nat) : Option Instr :=
  match decode (tableBytes nbits w) with
  | .instr i _ => some i
  | .illegal _ => none
  | .noWord => none
  | .noSecondWord => none

end Sys2Proof
end

