-- ==== Sys2Proof/Machine/Bitmap.lean ====
section
/-! DEFINITION. Plane bitmaps and the compositor's pixel operations (R46, R47, R503 to R516). -/

namespace Sys2Proof.Machine

/-- The display mode (R46). -/
inductive Mode where
  | lores
  | hires
  deriving DecidableEq, Repr

/-- `width(mode)` (R46). -/
def width : Mode → Nat
  | .lores => 64
  | .hires => 128

/-- `height(mode)` (R46). -/
def height : Mode → Nat
  | .lores => 32
  | .hires => 64

/-- One row of a plane: bit x is the pixel of column x; in lores the bits from 64 up are 0. -/
abbrev Row := BitVec 128

/-- One plane: its rows, the top row first (R47). -/
abbrev Bitmap := List Row

/-- `plane(x, y)` (R47). -/
def pixel (b : Bitmap) (x y : Nat) : Bool := (b.getD y 0).getLsbD x

/-- The bitmap whose row y, for y below the height, is `f y`. -/
def ofRows (m : Mode) (f : Nat → Row) : Bitmap := (List.range (height m)).map f

/-- The row whose pixel x, for x below the width, is `f x`. -/
def ofPixels (m : Mode) (f : Nat → Bool) : Row := BitVec.ofFnLE fun x : Fin 128 => decide (x.val < width m) && f x

/-- The row with every column below the width set. -/
def fullRow (m : Mode) : Row := BitVec.ofNat 128 (2 ^ width m - 1)

/-- The bitmap has the dimensions of the mode: its rows are `height` many and no pixel lies beyond `width`. -/
def bitmapFits (m : Mode) (b : Bitmap) : Bool := b.length == height m && b.all (fun r => r &&& fullRow m == r)

/-- The all-zero bitmap (R503, R516). -/
def blank (m : Mode) : Bitmap := ofRows m fun _ => 0

/-- Scroll down n rows (R512): row y takes old row y - n, the vacated rows are 0. -/
def scrolledDown (m : Mode) (n : Nat) (b : Bitmap) : Bitmap :=
  ofRows m fun y => if n ≤ y then b.getD (y - n) 0 else 0

/-- Scroll up n rows (R513). -/
def scrolledUp (m : Mode) (n : Nat) (b : Bitmap) : Bitmap :=
  ofRows m fun y => if y + n < height m then b.getD (y + n) 0 else 0

/-- Scroll right 4 pixels (R514): column x takes old column x - 4. -/
def scrolledRight (m : Mode) (b : Bitmap) : Bitmap :=
  ofRows m fun y => (b.getD y 0 <<< 4) &&& fullRow m

/-- Scroll left 4 pixels (R515): column x takes old column x + 4, taken below the width. -/
def scrolledLeft (m : Mode) (b : Bitmap) : Bitmap :=
  ofRows m fun y => (b.getD y 0 &&& fullRow m) >>> 4

/-! ### Sprites -/

/-- The columns of a sprite: 16 in the wide form, else 8 (R506). -/
def spriteCols (wide : Bool) : Nat := if wide then 16 else 8

/-- The rows of a sprite: 16 in the wide form, else one per byte (R506). -/
def spriteRows (wide : Bool) (bytes : List Byte) : Nat := if wide then 16 else bytes.length

/-- The sprite's bit at row r, column c (R505, R506, R509): bit 7 is the leftmost pixel of a byte; the wide
form has two bytes a row, the left one first. -/
def spriteBit (bytes : List Byte) (wide : Bool) (r c : Nat) : Bool :=
  (if wide then bytes.getD (2 * r + c / 8) 0 else bytes.getD r 0).getLsbD (7 - c % 8)

/-- The sprite pixels that land on display row y when the sprite's top-left pixel is at (x0, y0) (R504):
column c and row r land on column (x0 + c) mod W of row (y0 + r) mod H, so display column x and row y hold
the sprite's column (x - x0) mod W and row (y - y0) mod H. -/
def spriteRow (m : Mode) (bytes : List Byte) (wide : Bool) (x0 y0 y : Nat) : Row :=
  if (y + height m - y0) % height m < spriteRows wide bytes then
    ofPixels m fun x =>
      decide ((x + width m - x0) % width m < spriteCols wide)
        && spriteBit bytes wide ((y + height m - y0) % height m) ((x + width m - x0) % width m)
  else 0

/-- The plane after `write_sprite` (R509): every pixel is XORed with the sprite pixel over it. -/
def drawn (m : Mode) (bytes : List Byte) (wide : Bool) (x0 y0 : Nat) (b : Bitmap) : Bitmap :=
  ofRows m fun y => b.getD y 0 ^^^ spriteRow m bytes wide x0 y0 y

/-- The result of `write_sprite` (R508): some pixel was 1 under a 1 of the sprite (the AND formula). -/
def collides (m : Mode) (bytes : List Byte) (wide : Bool) (x0 y0 : Nat) (b : Bitmap) : Bool :=
  (List.range (height m)).any fun y => b.getD y 0 &&& spriteRow m bytes wide x0 y0 y != 0

/-! ### The loop of rule R509, word for word

The model draws by rows (above). This is the pseudocode of R509 as it stands, pixel by pixel with the
collision accumulated, so that the two can be stated equal. -/

/-- Flip one pixel. -/
def flipPixel (x y : Nat) (b : Bitmap) : Bitmap :=
  b.mapIdx fun k r => if k = y then r ^^^ (1#128 <<< x) else r

/-- The body of R509's two loops: `s` is the sprite's bit at row r, column c. -/
def writeSpritePixel (m : Mode) (bytes : List Byte) (wide : Bool) (x0 y0 r c : Nat) (acc : Bitmap × Bool) :
    Bitmap × Bool :=
  if spriteBit bytes wide r c then
    (flipPixel ((x0 + c) % width m) ((y0 + r) % height m) acc.1,
      acc.2 || pixel acc.1 ((x0 + c) % width m) ((y0 + r) % height m))
  else acc

/-- R509's `write_sprite`: for r in 0 .. rows-1, for c in 0 .. cols-1. -/
def writeSpriteLoop (m : Mode) (bytes : List Byte) (wide : Bool) (x0 y0 : Nat) (b : Bitmap) : Bitmap × Bool :=
  (List.range (spriteRows wide bytes)).foldl
    (fun acc r =>
      (List.range (spriteCols wide)).foldl (fun acc c => writeSpritePixel m bytes wide x0 y0 r c acc) acc)
    (b, false)

end Sys2Proof.Machine
end

