-- ==== Sys2Proof/Config.lean ====
section
/-! DEFINITION. The implementation parameters of rule R8 as one plain record, and the inputs of a tick
(rule R16) with the ONE free value of the model, `Config.freeInput`.

A `Config` stands in `State` and no instruction changes it, so a statement about every state is a
statement about every choice of the parameters. The default values are in `Machine/Params.lean`. -/

namespace Sys2Proof

/-- The two readings of "an alternating bit pattern" (R57, D22): sixteen bytes 0x55 or sixteen 0xAA. -/
inductive AltPattern where
  | h55
  | hAA
  deriving DecidableEq, Repr

/-- When the tick loop offers a frame (R726). -/
inductive FramePolicy where
  /-- only after a tick that leaves `updated` true -/
  | onChange
  /-- after every tick that was executed or blocked -/
  | everyTick
  deriving DecidableEq, Repr

/-- What happens to a frame the frontend is not ready for (R724). -/
inductive Delivery where
  /-- the new frame is dropped and the engine goes on -/
  | skipFrames
  /-- the engine waits until the frontend has consumed the frame -/
  | noSkip
  deriving DecidableEq, Repr

/-- The parameters of rule R8 that are not fixed numbers of the source. DESIGN CHOICE, assumption 19: R8 gives the
three rate caps no type; here each is a natural number, 0 among them and no fractional rate. -/
structure Config where
  /-- `MEM_SIZE`: 65536 or 4096 (R40). -/
  memSize : Nat
  /-- `NUM_PLANES`: 1 or 2 (R47). -/
  numPlanes : Nat
  /-- `TIMER_FREQ_HZ`: 60 (R51). -/
  timerFreqHz : Nat
  /-- `SPEED_MULT`: a positive rational (R8). -/
  speedMult : Rat
  /-- `FONT_SMALL_BASE` (R43). -/
  fontSmallBase : Nat
  /-- `FONT_BIG_BASE` (R43). -/
  fontBigBase : Nat
  /-- `FONT_SMALL`: 16 glyphs of 5 bytes (R44). -/
  fontSmall : List Byte
  /-- `FONT_BIG`: 16 glyphs of 10 bytes (R45). -/
  fontBig : List Byte
  /-- `INIT_PATTERN` (R57). -/
  initPattern : AltPattern
  /-- `LOADSTORE_INCREMENTS_I` (R407, R408). -/
  loadStoreIncrementsI : Bool
  /-- `LOGIC_VF_RESET` (R304). -/
  logicVfReset : Bool
  /-- `PALETTE`: the palette after reset (R49, R57). -/
  palette : Vector Colour 4
  /-- `FRAME_POLICY` (R726). -/
  framePolicy : FramePolicy
  /-- `DELIVERY` (R724). -/
  delivery : Delivery
  /-- `IPS_CAP` (R8, R20): no rule of the core reads it; its type is assumption 19. -/
  ipsCap : Option Nat
  /-- `FPS_CAP` (R8, R20): no rule of the core reads it; its type is assumption 19. -/
  fpsCap : Option Nat
  /-- `IPF_CAP` (R8, R20): no rule of the core reads it; its type is assumption 19. -/
  ipfCap : Option Nat
  deriving DecidableEq, Repr

/-- The parameter values the spec admits: R8, R40, R47, R51, the font tables of R43 to R45 inside
0x000..0x1FF without overlap, and R20 on the caps ("mutually exclusive with the ips cap, requires the fps
cap"). -/
def Config.wf (c : Config) : Bool :=
  (c.memSize == 4096 || c.memSize == 65536)
    && (c.numPlanes == 1 || c.numPlanes == 2)
    && c.timerFreqHz == 60
    && decide (0 < c.speedMult)
    && c.fontSmall.length == 80
    && c.fontBig.length == 160
    && decide (c.fontSmallBase + 80 ≤ 0x200)
    && decide (c.fontBigBase + 160 ≤ 0x200)
    && (decide (c.fontSmallBase + 80 ≤ c.fontBigBase) || decide (c.fontBigBase + 160 ≤ c.fontSmallBase))
    && (c.ipfCap.isNone || (c.ipsCap.isNone && c.fpsCap.isSome))

/-- What the environment gives one tick (R16, R720, R722): the clock sample `now` (R600), the random byte a
CXNN would draw (R313), and the snapshot the frontend pushed before the tick, if it pushed one (R722). -/
structure TickInput where
  now : Seconds
  rand8 : Byte
  push : Option Keys
  deriving DecidableEq, Repr, Inhabited

/-- The FREE VALUE of the model: the input of tick number k when the state's schedule `inputs` is empty.
It has no body, so nothing can be proved of it: any clock, any random byte, any push (U9, U10, U11). See
assumption 3. -/
opaque Config.freeInput : Nat → TickInput

end Sys2Proof
end

