-- ==== Sys2Proof/Machine/Memory.lean ====
section
/-! DEFINITION. The one flat byte memory (R40, R85, R90) as a list of cells in canonical form. -/

namespace Sys2Proof.Machine

/-- What a byte nothing has written reads as (R57, R88): the small font at `FONT_SMALL_BASE ..+79`, the big
font at `FONT_BIG_BASE ..+159`, 0 everywhere else. -/
def resetByte (c : Config) (a : Nat) : Byte :=
  if c.fontSmallBase ≤ a ∧ a < c.fontSmallBase + 80 then c.fontSmall.getD (a - c.fontSmallBase) 0
  else if c.fontBigBase ≤ a ∧ a < c.fontBigBase + 160 then c.fontBig.getD (a - c.fontBigBase) 0
  else 0

/-- Memory lists the bytes that differ from their reset contents. -/
abbrev Memory := List Host.Cell

/-- The byte at an address: the listed one, else the reset contents `d`. -/
def Memory.read (d : Nat → Byte) : Memory → Nat → Byte
  | [], a => d a
  | c :: m, a => if c.1 = a then c.2 else Memory.read d m a

/-- Put a cell at its place in the rising order. -/
def Memory.insert (a : Nat) (b : Byte) : Memory → Memory
  | [] => [(a, b)]
  | c :: m => if a < c.1 then (a, b) :: c :: m else c :: Memory.insert a b m

/-- Write a byte: the old cell of the address goes, and a new one comes unless the byte is what an unlisted
address reads as. -/
def Memory.write (d : Nat → Byte) (m : Memory) (a : Nat) (b : Byte) : Memory :=
  if b = d a then m.filter (fun c => c.1 != a)
  else Memory.insert a b (m.filter (fun c => c.1 != a))

/-- Addresses strictly rising, from a lower bound on. -/
def Memory.risingFrom (lo : Nat) : Memory → Bool
  | [] => true
  | c :: m => decide (lo ≤ c.1) && Memory.risingFrom (c.1 + 1) m

/-- The canonical form: addresses strictly rising, below `size`, and no cell equal to what an unlisted
address reads as. -/
def Memory.wf (d : Nat → Byte) (size : Nat) (m : Memory) : Bool :=
  Memory.risingFrom 0 m && m.all (fun c => decide (c.1 < size) && (c.2 != d c.1))

/-- Write bytes in ascending address order (R14, R87). -/
def Memory.writeList (d : Nat → Byte) : Memory → Nat → List Byte → Memory
  | m, _, [] => m
  | m, a, b :: bs => Memory.writeList d (m.write d a b) (a + 1) bs

end Sys2Proof.Machine
end

