-- ==== Sys2Proof/Machine/Params.lean ====
section
/-! DEFINITION. The default values of the parameters of rule R8 (the ones the vectors of 95_test_vectors.md
assume) with the default font tables of R44 and R45, and the model's own choice for the parameters R8 gives no
default. See assumptions 1, 2 and 19. -/

namespace Sys2Proof.Machine

/-- Small-font glyphs 0 to 7 (R44). -/
def fontSmall0 : List Byte :=
  [0xF0, 0x90, 0x90, 0x90, 0xF0] ++ [0x20, 0x60, 0x20, 0x20, 0x70]
    ++ [0xF0, 0x10, 0xF0, 0x80, 0xF0] ++ [0xF0, 0x10, 0xF0, 0x10, 0xF0]
    ++ [0x90, 0x90, 0xF0, 0x10, 0x10] ++ [0xF0, 0x80, 0xF0, 0x10, 0xF0]
    ++ [0xF0, 0x80, 0xF0, 0x90, 0xF0] ++ [0xF0, 0x10, 0x20, 0x40, 0x40]

/-- Small-font glyphs 8 to F (R44). -/
def fontSmall1 : List Byte :=
  [0xF0, 0x90, 0xF0, 0x90, 0xF0] ++ [0xF0, 0x90, 0xF0, 0x10, 0xF0]
    ++ [0xF0, 0x90, 0xF0, 0x90, 0x90] ++ [0xE0, 0x90, 0xE0, 0x90, 0xE0]
    ++ [0xF0, 0x80, 0x80, 0x80, 0xF0] ++ [0xE0, 0x90, 0x90, 0x90, 0xE0]
    ++ [0xF0, 0x80, 0xF0, 0x80, 0xF0] ++ [0xF0, 0x80, 0xF0, 0x80, 0x80]

/-- Big-font glyphs 0 to 3 (R45). -/
def fontBig0 : List Byte :=
  [0xFF, 0xFF, 0xC3, 0xC3, 0xC3, 0xC3, 0xC3, 0xC3, 0xFF, 0xFF]
    ++ [0x18, 0x78, 0x78, 0x18, 0x18, 0x18, 0x18, 0x18, 0xFF, 0xFF]
    ++ [0xFF, 0xFF, 0x03, 0x03, 0xFF, 0xFF, 0xC0, 0xC0, 0xFF, 0xFF]
    ++ [0xFF, 0xFF, 0x03, 0x03, 0xFF, 0xFF, 0x03, 0x03, 0xFF, 0xFF]

/-- Big-font glyphs 4 to 7 (R45). -/
def fontBig1 : List Byte :=
  [0xC3, 0xC3, 0xC3, 0xC3, 0xFF, 0xFF, 0x03, 0x03, 0x03, 0x03]
    ++ [0xFF, 0xFF, 0xC0, 0xC0, 0xFF, 0xFF, 0x03, 0x03, 0xFF, 0xFF]
    ++ [0xFF, 0xFF, 0xC0, 0xC0, 0xFF, 0xFF, 0xC3, 0xC3, 0xFF, 0xFF]
    ++ [0xFF, 0xFF, 0x03, 0x03, 0x06, 0x0C, 0x18, 0x18, 0x18, 0x18]

/-- Big-font glyphs 8 to B (R45). -/
def fontBig2 : List Byte :=
  [0xFF, 0xFF, 0xC3, 0xC3, 0xFF, 0xFF, 0xC3, 0xC3, 0xFF, 0xFF]
    ++ [0xFF, 0xFF, 0xC3, 0xC3, 0xFF, 0xFF, 0x03, 0x03, 0xFF, 0xFF]
    ++ [0x7E, 0xFF, 0xC3, 0xC3, 0xC3, 0xFF, 0xFF, 0xC3, 0xC3, 0xC3]
    ++ [0xFC, 0xFC, 0xC3, 0xC3, 0xFC, 0xFC, 0xC3, 0xC3, 0xFC, 0xFC]

/-- Big-font glyphs C to F (R45). -/
def fontBig3 : List Byte :=
  [0x3C, 0xFF, 0xC3, 0xC0, 0xC0, 0xC0, 0xC0, 0xC3, 0xFF, 0x3C]
    ++ [0xFC, 0xFE, 0xC3, 0xC3, 0xC3, 0xC3, 0xC3, 0xC3, 0xFE, 0xFC]
    ++ [0xFF, 0xFF, 0xC0, 0xC0, 0xFF, 0xFF, 0xC0, 0xC0, 0xFF, 0xFF]
    ++ [0xFF, 0xFF, 0xC0, 0xC0, 0xFF, 0xFF, 0xC0, 0xC0, 0xC0, 0xC0]

/-- The default parameters: R8's defaults, but for those R8 gives none. DESIGN CHOICE: `initPattern` is 0x55
(assumption 2); `framePolicy` is `on_change`, and the three optional caps are absent (assumption 19). -/
def defaultConfig : Config where
  memSize := 65536
  numPlanes := 2
  timerFreqHz := 60
  speedMult := 1
  fontSmallBase := 0x000
  fontBigBase := 0x050
  fontSmall := fontSmall0 ++ fontSmall1
  fontBig := fontBig0 ++ fontBig1 ++ fontBig2 ++ fontBig3
  initPattern := .h55
  loadStoreIncrementsI := true
  logicVfReset := false
  palette := #v[0, 1, 2, 3]
  framePolicy := .onChange
  delivery := .skipFrames
  ipsCap := none
  fpsCap := none
  ipfCap := none

/-- The sixteen bytes of the pattern buffer after reset (R57). -/
def initialPattern (c : Config) : Vector Byte 16 :=
  match c.initPattern with
  | .h55 => Vector.replicate 16 0x55
  | .hAA => Vector.replicate 16 0xAA

end Sys2Proof.Machine
end

