-- ==== Sys2Proof/Machine/Timer.lean ====
section
/-! DEFINITION. The timer register (R51, R601 to R604, R614). -/

namespace Sys2Proof.Machine

/-- The wall-clock-decaying 8-bit countdown register of R51. No rule reads `startInstant`. -/
structure TimerRegister where
  startInstant : Seconds
  lastSetInstant : Seconds
  lastSetValue : Byte
  tickFrequencyHz : Nat
  speedMultiplier : Rat
  deriving DecidableEq, Repr

/-- Steps per second: `tick_frequency_hz * speed_multiplier`. -/
def TimerRegister.rate (tr : TimerRegister) : Rat := (tr.tickFrequencyHz : Rat) * tr.speedMultiplier

/-- `steps_elapsed` (R601): floor((t - last_set_instant) * tick_frequency_hz * speed_multiplier). -/
def TimerRegister.steps (tr : TimerRegister) (t : Seconds) : Int :=
  ((t - tr.lastSetInstant) * (tr.tickFrequencyHz : Rat) * tr.speedMultiplier).floor

/-- `get(T, t)` (R601): the value last set less the steps elapsed, clamped to 0. -/
def TimerRegister.get (tr : TimerRegister) (t : Seconds) : Byte :=
  BitVec.ofNat 8 ((tr.lastSetValue.toNat : Int) - tr.steps t).toNat

/-- `set(T, v, t)` (R602). -/
def TimerRegister.set (tr : TimerRegister) (v : Byte) (t : Seconds) : TimerRegister :=
  { tr with lastSetInstant := t, lastSetValue := v }

/-- `time_remaining(T, t)` (R603): `none` at rest, else the time until `get` first reads 0. -/
def TimerRegister.timeRemaining (tr : TimerRegister) (t : Seconds) : Option Seconds :=
  if tr.get t = 0 then none
  else some ((tr.lastSetValue.toNat : Rat) / tr.rate - (t - tr.lastSetInstant))

/-- A timer at rest, set to 0 at instant `t0` (R57, R800). -/
def TimerRegister.atRest (t0 : Seconds) (hz : Nat) (mult : Rat) : TimerRegister where
  startInstant := t0
  lastSetInstant := t0
  lastSetValue := 0
  tickFrequencyHz := hz
  speedMultiplier := mult

end Sys2Proof.Machine
end

