-- ==== Sys2Proof/Machine/State.lean ====
section
/-! DEFINITION. The state of the core as plain data: the record of R30, the key mailbox of R722, and the
model's own fields for the parameters, the inputs and the outputs of a tick. -/

namespace Sys2Proof.Machine

/-- The faults of R702, each with what it records besides the opcode word and PC. A fault is TAKEN inside
the tick that raises it: the tick answers a next state whose `halted` holds the record (R700). The outcome
`fault` of a step is the answer of a core that is already halted (R58, R200, R710). All six are the spec's
own outcomes; where the spec calls them its own decision (D2, D3, D4, D11) it calls them safe. -/
inductive Fault where
  /-- Code 1. Raised by the decode of any tick on a word that matches no row of R116 (R701). Safe. -/
  | decodeError
  /-- Code 2. Raised by a fetch, the second word of F000, a taken skip's look-ahead, and DXYN, FX33, FX55,
  FX65, 5XY2, 5XY3, F002 when an address is not below `MEM_SIZE`; records the first such address (R703).
  Safe. -/
  | memFault (firstBad : Nat)
  /-- Code 3. Raised by 2NNN with SP = 16 (R704). Safe. -/
  | stackOverflow
  /-- Code 4. Raised by 00EE with SP = 0 (R704). Safe. -/
  | stackUnderflow
  /-- Code 5. Raised by EX9E and EXA1 with V[X] above 15; records V[X] (R705). Safe. -/
  | keyIndexFault (value : Byte)
  /-- Code 6. Raised by any advance or skip that would take PC above 0xFFFF (R706). Safe. -/
  | pcOverflow
  deriving DecidableEq, Repr

/-- The cause codes of R702. -/
def Fault.code : Fault → Nat
  | .decodeError => 1
  | .memFault _ => 2
  | .stackOverflow => 3
  | .stackUnderflow => 4
  | .keyIndexFault _ => 5
  | .pcOverflow => 6

/-- Why a step has no meaning. -/
inductive Refusal where
  /-- Raised by an arm of `exec` for an instruction that has no meaning yet, under its mnemonic; no arm of
  this model does. Safe. -/
  | notModelled (mnemonic : String)
  deriving DecidableEq, Repr

/-- The record a fault leaves in `halted` (R58). -/
structure FaultRecord where
  kind : Fault
  /-- The word fetched, 0 when the fetch itself faulted. -/
  opcode : Word
  /-- The PC of the faulting instruction. -/
  pc : Word
  deriving DecidableEq, Repr

/-- The outcome of a tick (R200). -/
inductive TickResult where
  | executed
  | blocked
  | fault (kind : Fault)
  deriving DecidableEq, Repr

/-- One event of the AudioPatternPort (R613): all 16 pattern bytes and a duration. -/
structure AudioArm where
  pattern : Vector Byte 16
  duration : Seconds
  deriving DecidableEq, Repr

/-- The whole machine. The fields down to `halted` are the record of R30; the rest are the key mailbox
(R722) and the model's own fields. -/
structure State where
  /-- V0..VF (R31). -/
  v : Vector Byte 16
  /-- The index register I (R35). -/
  i : Word
  /-- The program counter (R36). -/
  pc : Word
  /-- The return-address stack (R37, R38). -/
  stack : Vector Word 16
  /-- SP: the number of stack entries in use (R37, R39). -/
  sp : Byte
  /-- Memory (R40): the cells that differ from their reset contents. -/
  mem : Memory
  /-- The display mode (R46). -/
  mode : Mode
  /-- The planes, plane 0 first (R47). -/
  planes : List Bitmap
  /-- The plane selection mask (R48). -/
  activePlanes : Byte
  /-- The frame colour map (R49). -/
  palette : Vector Colour 4
  /-- The display changed since last observed (R50). -/
  updated : Bool
  /-- The count of display-changing operations (R50). -/
  updates : Nat
  /-- The delay timer (R51). -/
  dt : TimerRegister
  /-- The sound timer (R51). -/
  st : TimerRegister
  /-- The key state the engine sees (R53). -/
  keys : Keys
  /-- The snapshot FX0A takes (R54). -/
  prevKeys : Keys
  /-- The audio pattern buffer (R55). -/
  pattern : Vector Byte 16
  /-- Set once by a fault (R58). -/
  halted : Option FaultRecord
  /-- The single slot of the key mailbox (R722), part of the host interface. -/
  mailbox : Option Keys
  /-- Model's own: the parameters of R8. No step changes them. -/
  cfg : Config
  /-- Model's own: the clock sample of the current tick (R600), which the next one is never below. -/
  now : Seconds
  /-- Model's own: the random byte of the current tick (R313). -/
  rand8 : Byte
  /-- Model's own: the inputs of the coming ticks, the next tick's first. When it is empty the next tick takes
  `Config.freeInput`. -/
  inputs : List TickInput
  /-- Model's own: how many ticks have begun; the index of the next free input. -/
  ticks : Nat
  /-- Model's own: the outcome of the last tick (R200), none before the first. -/
  result : Option TickResult
  /-- Model's own: the event output of the last tick, oldest first (R613). -/
  events : List AudioArm
  deriving DecidableEq, Repr

/-- The machine right after reset at instant `t0` with parameters `c` (R57, R800). -/
def State.resetWith (c : Config) (t0 : Seconds) : State where
  v := Vector.replicate 16 0
  i := 0
  pc := 0x200
  stack := Vector.replicate 16 0
  sp := 0
  mem := []
  mode := .lores
  planes := List.replicate c.numPlanes (blank .lores)
  activePlanes := 0b01
  palette := c.palette
  updated := false
  updates := 0
  dt := TimerRegister.atRest t0 c.timerFreqHz c.speedMult
  st := TimerRegister.atRest t0 c.timerFreqHz c.speedMult
  keys := Vector.replicate 16 false
  prevKeys := Vector.replicate 16 false
  pattern := initialPattern c
  halted := none
  mailbox := none
  cfg := c
  now := t0
  rand8 := 0
  inputs := []
  ticks := 0
  result := none
  events := []

/-- The machine right after reset with the default parameters, the reset instant being the clock's origin. -/
def State.reset : State := State.resetWith defaultConfig 0

end Sys2Proof.Machine
end

