-- ==== Sys2Proof/Machine/Ops.lean ====
section
/-! DEFINITION. The named operations every meaning is written with: registers, memory, the PC's advance and
the skip, taking a fault, and closing a tick. -/

namespace Sys2Proof.Machine

/-! ### Registers -/

/-- Read V[x] (R13, R31). -/
def State.reg (s : State) (x : Reg) : Byte := s.v[x]

/-- Write V[x] (R13, R31). -/
@[simps] def State.setV (s : State) (x : Reg) (b : Byte) : State := { s with v := s.v.set x b }

/-- Write I (R35). -/
@[simps] def State.setI (s : State) (a : Word) : State := { s with i := a }

/-- Write PC (R36). -/
@[simps] def State.setPc (s : State) (a : Word) : State := { s with pc := a }

/-- Write several registers, the first named first (R408, R410). -/
def State.setRegs (s : State) : List Reg → List Byte → State
  | x :: xs, b :: bs => State.setRegs (s.setV x b) xs bs
  | _, _ => s

/-! ### Memory -/

/-- The byte at an address (R85). -/
def State.readByte (s : State) (a : Nat) : Byte := s.mem.read (resetByte s.cfg) a

/-- `MemRead(addr, n)` (R14): the first byte first. -/
def State.readBytes (s : State) (a n : Nat) : List Byte := (List.range n).map fun k => s.readByte (a + k)

/-- `MemWrite(addr, n, bytes)` (R14, R87). -/
@[simps] def State.writeBytes (s : State) (a : Nat) (bs : List Byte) : State :=
  { s with mem := s.mem.writeList (resetByte s.cfg) a bs }

/-- `Word16(addr)` (R14, R80). -/
def State.word16 (s : State) (a : Nat) : Word := bigEndian (s.readByte a) (s.readByte (a + 1))

/-- The range check of R86: every address of the access is below `MEM_SIZE`, without wrap-around. -/
def State.admits (s : State) (a n : Nat) : Bool := n == 0 || decide (a + n ≤ s.cfg.memSize)

/-- The first address not below `MEM_SIZE` of a refused access starting at `a` (R86). -/
def State.firstBad (s : State) (a : Nat) : Nat := max a s.cfg.memSize

/-! ### What an instruction does, and the end of a tick -/

/-- What an instruction's rule comes to (R200): it completes, it blocks, or it raises a fault, whose writes
are then discarded with the state it was computing. -/
inductive Effect where
  | executed (t : State)
  | blocked (t : State)
  | raised (k : Fault)
  deriving DecidableEq, Repr

/-- TAKING A FAULT (R58, R700, R702, R709): `halted` is set to the record (kind, opcode, pc) and the tick's
result is the fault; no other state changes and PC still addresses the faulting instruction. There is no
handler, no vector and no saved context (R709), and no return from a fault (R710): only reset clears
`halted`, so no operation of the machine does. -/
@[simps] def State.takeFault (s : State) (opcode : Word) (k : Fault) : State :=
  { s with halted := some ⟨k, opcode, s.pc⟩, result := some (.fault k) }

/-- Record the outcome of a tick that did not fault (R200). -/
@[simps] def State.setResult (s : State) (r : TickResult) : State := { s with result := some r }

/-- The state after the tick: `s` is the state the instruction started in. -/
def Effect.settle (e : Effect) (opcode : Word) (s : State) : State :=
  match e with
  | .executed t => t.setResult .executed
  | .blocked t => t.setResult .blocked
  | .raised k => s.takeFault opcode k

/-- The outcome of executing `i` from `s` (R200): always a next state, a fault being taken in it. -/
def commit (i : Instr) (s : State) (e : Effect) : Host.Outcome State Fault Refusal :=
  .next (e.settle (opcodeOf i) s)

/-! ### Advance, access and skip -/

/-- `advance(n)` (R17, R203): PC + n, or `PcOverflow` above 0xFFFF; PC never wraps. -/
def advance (n : Nat) (s : State) : Effect :=
  if 0xFFFF < s.pc.toNat + n then .raised .pcOverflow
  else .executed (s.setPc (BitVec.ofNat 16 (s.pc.toNat + n)))

/-- Make an access of `n` bytes at `a`, then go on with `e`; an access out of range raises
`MemFault(first_bad_address)` instead (R86, R400). -/
def State.access (s : State) (a n : Nat) (e : Effect) : Effect :=
  if s.admits a n then e else .raised (.memFault (s.firstBad a))

/-- The length of the instruction that starts at an address: 4 for the word 0xF000, else 2 (R120). -/
def State.lengthAt (s : State) (a : Nat) : Nat := if s.word16 a = longWord then 4 else 2

/-- `skip_if(c)` (R204): only a taken skip looks at the word at PC + 2, which is never decoded. -/
def skipIf (c : Bool) (s : State) : Effect :=
  if c then s.access (s.pc.toNat + 2) 2 (advance (2 + s.lengthAt (s.pc.toNat + 2)) s)
  else advance 2 s

/-! ### The stack -/

/-- `stack[SP] <- PC; SP <- SP + 1` (R211), for SP below 16. -/
@[simps] def State.push (s : State) (h : s.sp.toNat < 16) : State :=
  { s with stack := s.stack.set s.sp.toNat s.pc, sp := s.sp + 1 }

/-- `SP <- SP - 1; PC <- stack[SP]` (R212), for SP in 1..16. The entry is not cleared. -/
@[simps] def State.pop (s : State) (h : s.sp.toNat - 1 < 16) : State :=
  { s with sp := s.sp - 1, pc := s.stack[s.sp.toNat - 1] }

/-! ### The display -/

/-- Plane p responds to clear, scroll and draw (R48): its bit is set and the plane exists. -/
def State.isActive (s : State) (p : Nat) : Bool := decide (p < s.cfg.numPlanes) && s.activePlanes.getLsbD p

/-- `act`: the active planes in ascending order (R48). `active_planes` is 8 bits wide. -/
def State.act (s : State) : List Nat := (List.range 8).filter s.isActive

/-- `mark_updated` (R501). -/
@[simps] def State.markUpdated (s : State) : State := { s with updated := true, updates := s.updates + 1 }

/-- Replace the planes. -/
@[simps] def State.setPlanes (s : State) (ps : List Bitmap) : State := { s with planes := ps }

/-- Apply an operation to every active plane and leave the others (R500). -/
def State.mapActive (s : State) (f : Bitmap → Bitmap) : State :=
  s.setPlanes (s.planes.mapIdx fun p b => if s.isActive p then f b else b)

/-- `set_mode(m)` (R516): every plane, active or not, becomes an all-zero bitmap of the new dimensions. -/
@[simps] def State.setMode (s : State) (m : Mode) : State :=
  { s with mode := m, planes := List.replicate s.cfg.numPlanes (blank m) }

/-- `plane[p](x, y)` (R13, R47). -/
def State.planePixel (s : State) (p x y : Nat) : Bool := pixel (s.planes.getD p []) x y

/-! ### Devices -/

/-- Write `active_planes` (R530). -/
@[simps] def State.setActivePlanes (s : State) (m : Byte) : State := { s with activePlanes := m }

/-- `set(DT, v, now)` (R602). -/
@[simps] def State.setDt (s : State) (b : Byte) : State := { s with dt := s.dt.set b s.now }

/-- `set(ST, v, now)` (R602). -/
@[simps] def State.setSt (s : State) (b : Byte) : State := { s with st := s.st.set b s.now }

/-- `emit AudioArm(pattern, duration)` (R16, R613). -/
@[simps] def State.emit (s : State) (duration : Seconds) : State :=
  { s with events := s.events ++ [⟨s.pattern, duration⟩] }

/-- Overwrite the pattern buffer wholesale (R55, R615). -/
@[simps] def State.setPattern (s : State) (p : Vector Byte 16) : State := { s with pattern := p }

/-- `prev_keys <- keys` (R54, R625). -/
@[simps] def State.snapshotKeys (s : State) : State := { s with prevKeys := s.keys }

end Sys2Proof.Machine
end

