-- ==== Sys2Proof/Machine/Flags.lean ====
section
/-! DEFINITION. The one flag, VF (R32, R34, R300): its register, its values and every computation of it. -/

namespace Sys2Proof.Machine

/-- VF is V[0xF] (R32). -/
def vf : Reg := 15

/-- A flag as a byte: 1 or 0. -/
def flagByte (c : Bool) : Byte := if c then 1 else 0

/-- Write VF as a flag (R32); meanings do it after the result, so X = 0xF ends with the flag. -/
def State.setVF (s : State) (c : Bool) : State := s.setV vf (flagByte c)

/-- ADD: carry out of bit 7 (R300, R308). -/
def carryOut (a b : Byte) : Bool := decide (255 < a.toNat + b.toNat)

/-- SUB and SUBN: no borrow in a - b (R300, R309, R311). -/
def noBorrow (a b : Byte) : Bool := decide (b.toNat ≤ a.toNat)

/-- SHR: the bit shifted out is bit 0 (R310). -/
def lowBitOut (a : Byte) : Bool := a.getLsbD 0

/-- SHL: the bit shifted out is bit 7 (R312). -/
def highBitOut (a : Byte) : Bool := a.getLsbD 7

/-- The end of 8XY1, 8XY2 and 8XY3 (R304): `if LOGIC_VF_RESET: V[0xF] <- 0`. -/
def State.logicReset (s : State) : State := if s.cfg.logicVfReset then s.setV vf 0 else s

end Sys2Proof.Machine
end

