-- ==== Sys2Proof/Machine/Operands.lean ====
section
/-! DEFINITION. The operand forms (R111, R113): immediates, register ranges, the digit and key operands of
a register, sprite coordinates and shape, and the pattern bytes. -/

namespace Sys2Proof.Machine

/-- The 8-bit immediate NN, used as is (R113). -/
def immByte (nn : Nat) : Byte := BitVec.ofNat 8 nn

/-- The 12-bit address NNN, or the 16-bit address NNNN, widened with zeros to 16 bits (R113). -/
def immAddr (n : Nat) : Word := BitVec.ofNat 16 n

/-- An address in I as a natural number, so that I + k never wraps (R400). -/
def State.base (s : State) : Nat := s.i.toNat

/-- How many registers `VX-VY` names: |X - Y| + 1 (R409). -/
def rangeLength (x y : Reg) : Nat := (if x ≤ y then y.val - x.val else x.val - y.val) + 1

/-- Register number k of the range `VX-VY`: X + k going up, X - k going down (R410). -/
def rangeReg (x y : Reg) (k : Nat) : Reg :=
  if x ≤ y then Fin.ofNat 16 (x.val + k) else Fin.ofNat 16 (x.val - k)

/-- The registers `VX-VY` in the order they are moved, X first (R122, R409). -/
def regRange (x y : Reg) : List Reg := (List.range (rangeLength x y)).map (rangeReg x y)

/-- The values of a list of registers. -/
def State.regs (s : State) (xs : List Reg) : List Byte := xs.map s.reg

/-- The hexadecimal digit a register selects: its low nibble (R404, R405). -/
def digitOf (b : Byte) : Nat := b.toNat % 16

/-- Where the small glyph of a digit begins (R43, R404). -/
def smallGlyph (c : Config) (b : Byte) : Word := BitVec.ofNat 16 (c.fontSmallBase + 5 * digitOf b)

/-- Where the big glyph of a digit begins (R43, R405). -/
def bigGlyph (c : Config) (b : Byte) : Word := BitVec.ofNat 16 (c.fontBigBase + 10 * digitOf b)

/-- The three decimal digits of a byte, hundreds first (R406). -/
def decimalDigits (b : Byte) : List Byte :=
  [BitVec.ofNat 8 (b.toNat / 100), BitVec.ofNat 8 (b.toNat / 10 % 10), BitVec.ofNat 8 (b.toNat % 10)]

/-- I after FX55 and FX65 (R407, R408): past the bytes moved when `LOADSTORE_INCREMENTS_I`. -/
def State.stepI (s : State) (n : Nat) : State :=
  if s.cfg.loadStoreIncrementsI then s.setI (BitVec.ofNat 16 (s.base + n)) else s

/-- The key a register names, when it is a valid key number 0..15 (R622). -/
def keyOf (b : Byte) : Option (Fin 16) := if h : b.toNat < 16 then some ⟨b.toNat, h⟩ else none

/-- A fresh press of key k (R623). -/
def State.isFresh (s : State) (k : Fin 16) : Bool := s.keys[k] && !s.prevKeys[k]

/-- `min(fresh)` (R625): the lowest key pressed now and released in the last FX0A snapshot. -/
def State.firstFresh (s : State) : Option (Fin 16) := (List.finRange 16).find? s.isFresh

/-- x0: V[X] mod W (R504, R510). -/
def State.spriteX (s : State) (x : Reg) : Nat := (s.reg x).toNat % width s.mode

/-- y0: V[Y] mod H (R504, R510). -/
def State.spriteY (s : State) (y : Reg) : Nat := (s.reg y).toNat % height s.mode

/-- N = 0 is the 16 x 16 form (R506). -/
def isWide (n : Nat) : Bool := n == 0

/-- B: the bytes of a sprite per plane (R506). -/
def spriteBytes (n : Nat) : Nat := if n = 0 then 32 else n

/-- The place of plane p in `act`: how many active planes come before it (R507). -/
def State.actIndex (s : State) (p : Nat) : Nat := ((List.range p).filter s.isActive).length

/-- The block of sprite data plane p takes: bytes I + j*B .. I + j*B + B - 1 for the j-th plane of `act`
(R507). -/
def State.spriteBlock (s : State) (n p : Nat) : List Byte :=
  s.readBytes (s.base + s.actIndex p * spriteBytes n) (spriteBytes n)

/-- The sixteen bytes at I (R615). -/
def State.patternAtI (s : State) : Vector Byte 16 := Vector.ofFn fun k : Fin 16 => s.readByte (s.base + k.val)

end Sys2Proof.Machine
end

