-- ==== Sys2Proof/Machine/Alu.lean ====
section
/-! DEFINITION. The meanings of the register loads, arithmetic, logic, shifts and random (41_alu.md). The
operands are read from `s`, the state before any write (R114); the flag is written last (R32). -/

namespace Sys2Proof.Machine

/-- 6XNN (R301). -/
def execLdImm (x : Reg) (nn : Nat) (s : State) : Host.Outcome State Fault Refusal :=
  commit (.ldImm x nn) s (advance 2 (s.setV x (immByte nn)))

/-- 7XNN (R302): VF is not written as a carry. -/
def execAddImm (x : Reg) (nn : Nat) (s : State) : Host.Outcome State Fault Refusal :=
  commit (.addImm x nn) s (advance 2 (s.setV x (s.reg x + immByte nn)))

/-- 8XY0 (R303). -/
def execLdReg (x y : Reg) (s : State) : Host.Outcome State Fault Refusal :=
  commit (.ldReg x y) s (advance 2 (s.setV x (s.reg y)))

/-- 8XY1 (R305). -/
def execOrReg (x y : Reg) (s : State) : Host.Outcome State Fault Refusal :=
  commit (.orReg x y) s (advance 2 (s.setV x (s.reg x ||| s.reg y)).logicReset)

/-- 8XY2 (R306). -/
def execAndReg (x y : Reg) (s : State) : Host.Outcome State Fault Refusal :=
  commit (.andReg x y) s (advance 2 (s.setV x (s.reg x &&& s.reg y)).logicReset)

/-- 8XY3 (R307). -/
def execXorReg (x y : Reg) (s : State) : Host.Outcome State Fault Refusal :=
  commit (.xorReg x y) s (advance 2 (s.setV x (s.reg x ^^^ s.reg y)).logicReset)

/-- 8XY4 (R308). -/
def execAddReg (x y : Reg) (s : State) : Host.Outcome State Fault Refusal :=
  commit (.addReg x y) s
    (advance 2 ((s.setV x (s.reg x + s.reg y)).setVF (carryOut (s.reg x) (s.reg y))))

/-- 8XY5 (R309): V[X] - V[Y]. -/
def execSubReg (x y : Reg) (s : State) : Host.Outcome State Fault Refusal :=
  commit (.subReg x y) s
    (advance 2 ((s.setV x (s.reg x - s.reg y)).setVF (noBorrow (s.reg x) (s.reg y))))

/-- 8XY6 (R310): V[Y] shifted right into V[X]. -/
def execShr (x y : Reg) (s : State) : Host.Outcome State Fault Refusal :=
  commit (.shr x y) s (advance 2 ((s.setV x (s.reg y >>> 1)).setVF (lowBitOut (s.reg y))))

/-- 8XY7 (R311): V[Y] - V[X]. -/
def execSubn (x y : Reg) (s : State) : Host.Outcome State Fault Refusal :=
  commit (.subn x y) s
    (advance 2 ((s.setV x (s.reg y - s.reg x)).setVF (noBorrow (s.reg y) (s.reg x))))

/-- 8XYE (R312): V[Y] shifted left into V[X]. -/
def execShl (x y : Reg) (s : State) : Host.Outcome State Fault Refusal :=
  commit (.shl x y) s (advance 2 ((s.setV x (s.reg y <<< 1)).setVF (highBitOut (s.reg y))))

/-- CXNN (R313, R314): the tick's random byte under the mask. -/
def execRnd (x : Reg) (nn : Nat) (s : State) : Host.Outcome State Fault Refusal :=
  commit (.rnd x nn) s (advance 2 (s.setV x (s.rand8 &&& immByte nn)))

end Sys2Proof.Machine
end

