-- ==== Sys2Proof/Machine/Control.lean ====
section
/-! DEFINITION. The meanings of the control transfers and the register skips (40_control.md). -/

namespace Sys2Proof.Machine

/-- 1NNN (R210). -/
def execJp (nnn : Nat) (s : State) : Host.Outcome State Fault Refusal :=
  commit (.jp nnn) s (.executed (s.setPc (immAddr nnn)))

/-- 2NNN (R211): push the address of this CALL, or `StackOverflow` when 16 calls are live. -/
def execCall (nnn : Nat) (s : State) : Host.Outcome State Fault Refusal :=
  commit (.call nnn) s
    (if h : s.sp.toNat < 16 then .executed ((s.push h).setPc (immAddr nnn)) else .raised .stackOverflow)

/-- 00EE (R212): pop the CALL's address and resume after it, or `StackUnderflow` when the stack is empty.
An SP above 16, which no run reaches (R39), names no entry: see assumption 12. -/
def execRet (s : State) : Host.Outcome State Fault Refusal :=
  commit .ret s
    (if s.sp = 0 then .raised .stackUnderflow
      else if h : s.sp.toNat - 1 < 16 then advance 2 (s.pop h)
      else .raised .stackOverflow)

/-- BNNN (R213): NNN + V[0], always V[0]; 0xFFF + 0xFF does not reach 16 bits. -/
def execJpV0 (nnn : Nat) (s : State) : Host.Outcome State Fault Refusal :=
  commit (.jpV0 nnn) s (.executed (s.setPc (immAddr (nnn + (s.reg 0).toNat))))

/-- 3XNN (R214). -/
def execSeImm (x : Reg) (nn : Nat) (s : State) : Host.Outcome State Fault Refusal :=
  commit (.seImm x nn) s (skipIf (s.reg x == immByte nn) s)

/-- 4XNN (R215). -/
def execSneImm (x : Reg) (nn : Nat) (s : State) : Host.Outcome State Fault Refusal :=
  commit (.sneImm x nn) s (skipIf (s.reg x != immByte nn) s)

/-- 5XY0 (R216). -/
def execSeReg (x y : Reg) (s : State) : Host.Outcome State Fault Refusal :=
  commit (.seReg x y) s (skipIf (s.reg x == s.reg y) s)

/-- 9XY0 (R217). -/
def execSneReg (x y : Reg) (s : State) : Host.Outcome State Fault Refusal :=
  commit (.sneReg x y) s (skipIf (s.reg x != s.reg y) s)

end Sys2Proof.Machine
end

