-- ==== Sys2Proof/Machine/Devices.lean ====
section
/-! DEFINITION. The meanings of the timer, audio and keypad instructions (44_timers_keys_audio.md). -/

namespace Sys2Proof.Machine

/-- FX07 (R610). -/
def execLdVxDt (x : Reg) (s : State) : Host.Outcome State Fault Refusal :=
  commit (.ldVxDt x) s (advance 2 (s.setV x (s.dt.get s.now)))

/-- FX15 (R611). -/
def execLdDtVx (x : Reg) (s : State) : Host.Outcome State Fault Refusal :=
  commit (.ldDtVx x) s (advance 2 (s.setDt (s.reg x)))

/-- Arm the sound timer with `b` (R612, R614): the event lasts b / (TIMER_FREQ_HZ * SPEED_MULT) seconds; 0
sets the timer to rest and emits nothing. -/
def State.armSound (s : State) (b : Byte) : State :=
  if b = 0 then s.setSt b else (s.setSt b).emit ((b.toNat : Rat) / s.st.rate)

/-- FX18 (R612). -/
def execLdStVx (x : Reg) (s : State) : Host.Outcome State Fault Refusal :=
  commit (.ldStVx x) s (advance 2 (s.armSound (s.reg x)))

/-- F002 (R615): I is not changed and no event is emitted. -/
def execAudio (s : State) : Host.Outcome State Fault Refusal :=
  commit .audio s (s.access s.base 16 (advance 2 (s.setPattern s.patternAtI)))

/-- The common form of EX9E and EXA1 (R620, R621, R622): `KeyIndexFault` above 15, else skip when the key's
state is `want`. -/
def skipOnKey (b : Byte) (want : Bool) (s : State) : Effect :=
  match keyOf b with
  | none => .raised (.keyIndexFault b)
  | some k => skipIf (s.keys[k] == want) s

/-- EX9E (R620). -/
def execSkp (x : Reg) (s : State) : Host.Outcome State Fault Refusal :=
  commit (.skp x) s (skipOnKey (s.reg x) true s)

/-- EXA1 (R621). -/
def execSknp (x : Reg) (s : State) : Host.Outcome State Fault Refusal :=
  commit (.sknp x) s (skipOnKey (s.reg x) false s)

/-- FX0A (R625): the snapshot is taken on every execution; without a fresh press the tick is blocked and PC
stays. -/
def execLdVxK (x : Reg) (s : State) : Host.Outcome State Fault Refusal :=
  commit (.ldVxK x) s
    (match s.firstFresh with
      | none => .blocked s.snapshotKeys
      | some k => advance 2 (s.snapshotKeys.setV x (BitVec.ofNat 8 k.val)))

end Sys2Proof.Machine
end

