-- ==== Sys2Proof/Machine/Display.lean ====
section
/-! DEFINITION. The meanings of the display instructions (43_display.md), and the frame of R540. -/

namespace Sys2Proof.Machine

/-- 00E0 (R503): every active plane becomes 0. -/
def execCls (s : State) : Host.Outcome State Fault Refusal :=
  commit .cls s (advance 2 (s.mapActive fun _ => blank s.mode).markUpdated)

/-- 00CN (R512). -/
def execScd (n : Nat) (s : State) : Host.Outcome State Fault Refusal :=
  commit (.scd n) s (advance 2 (s.mapActive (scrolledDown s.mode n)).markUpdated)

/-- 00DN (R513). -/
def execScu (n : Nat) (s : State) : Host.Outcome State Fault Refusal :=
  commit (.scu n) s (advance 2 (s.mapActive (scrolledUp s.mode n)).markUpdated)

/-- 00FB (R514). -/
def execScr (s : State) : Host.Outcome State Fault Refusal :=
  commit .scr s (advance 2 (s.mapActive (scrolledRight s.mode)).markUpdated)

/-- 00FC (R515). -/
def execScl (s : State) : Host.Outcome State Fault Refusal :=
  commit .scl s (advance 2 (s.mapActive (scrolledLeft s.mode)).markUpdated)

/-- 00FE (R517). -/
def execLow (s : State) : Host.Outcome State Fault Refusal :=
  commit .low s (advance 2 (s.setMode .lores).markUpdated)

/-- 00FF (R518). -/
def execHigh (s : State) : Host.Outcome State Fault Refusal :=
  commit .high s (advance 2 (s.setMode .hires).markUpdated)

/-- The planes after DXYN: every active plane has its block of the sprite drawn on it (R507, R510). -/
def State.drawnPlanes (s : State) (x y : Reg) (n : Nat) : List Bitmap :=
  s.planes.mapIdx fun p b =>
    if s.isActive p then drawn s.mode (s.spriteBlock n p) (isWide n) (s.spriteX x) (s.spriteY y) b else b

/-- The collision of DXYN: some active plane collided (R508, R510). -/
def State.drawCollides (s : State) (x y : Reg) (n : Nat) : Bool :=
  s.act.any fun p =>
    collides s.mode (s.spriteBlock n p) (isWide n) (s.spriteX x) (s.spriteY y) (s.planes.getD p [])

/-- DXYN (R510). The coordinates are read before VF is written; with no active plane nothing is read and VF
is 0. -/
def execDrw (x y : Reg) (n : Nat) (s : State) : Host.Outcome State Fault Refusal :=
  commit (.drw x y n) s
    (s.access s.base (spriteBytes n * s.act.length)
      (advance 2 ((s.setPlanes (s.drawnPlanes x y n)).setVF (s.drawCollides x y n)).markUpdated))

/-- FX01 (R530): the low two bits of the X field. -/
def execPlane (mask : Nat) (s : State) : Host.Outcome State Fault Refusal :=
  commit (.plane mask) s (advance 2 (s.setActivePlanes (BitVec.ofNat 8 (mask % 4))))

/-- A frame: row-major colour values, top-left first, with its dimensions (R540, R541). -/
structure Frame where
  width : Nat
  height : Nat
  pixels : List Colour
  deriving DecidableEq, Repr

/-- The 2-bit colour index of a coordinate: plane 0's bit, plane 1's bit shifted left by one (R540). A plane
that does not exist contributes 0. -/
def State.colourIndex (s : State) (x y : Nat) : Fin 4 :=
  Fin.ofNat 4 ((s.planePixel 0 x y).toNat + 2 * (s.planePixel 1 x y).toNat)

/-- `to_frame()` (R540): it reads the state and writes none of it. -/
def State.toFrame (s : State) : Frame where
  width := width s.mode
  height := height s.mode
  pixels := (List.range (height s.mode)).flatMap fun y =>
    (List.range (width s.mode)).map fun x => s.palette[s.colourIndex x y]

end Sys2Proof.Machine
end

