-- ==== Sys2Proof/Machine/LoadStore.lean ====
section
/-! DEFINITION. The meanings of the instructions that set I or move data between the registers and memory
(42_memory_ops.md). Every access is range-checked as a whole before anything is written (R400). -/

namespace Sys2Proof.Machine

/-- ANNN (R401). -/
def execLdI (nnn : Nat) (s : State) : Host.Outcome State Fault Refusal :=
  commit (.ldI nnn) s (advance 2 (s.setI (immAddr nnn)))

/-- F000 NNNN (R402): the second word must lie in memory. The fetch has read it (R93), so its value is the
operand. -/
def execLdILong (nnnn : Nat) (s : State) : Host.Outcome State Fault Refusal :=
  commit (.ldILong nnnn) s (s.access (s.pc.toNat + 2) 2 (advance 4 (s.setI (immAddr nnnn))))

/-- FX1E (R403): modulo 65536, VF not written. -/
def execAddI (x : Reg) (s : State) : Host.Outcome State Fault Refusal :=
  commit (.addI x) s (advance 2 (s.setI (BitVec.ofNat 16 (s.base + (s.reg x).toNat))))

/-- FX29 (R404). -/
def execLdF (x : Reg) (s : State) : Host.Outcome State Fault Refusal :=
  commit (.ldF x) s (advance 2 (s.setI (smallGlyph s.cfg (s.reg x))))

/-- FX30 (R405). -/
def execLdHf (x : Reg) (s : State) : Host.Outcome State Fault Refusal :=
  commit (.ldHf x) s (advance 2 (s.setI (bigGlyph s.cfg (s.reg x))))

/-- FX33 (R406). -/
def execLdB (x : Reg) (s : State) : Host.Outcome State Fault Refusal :=
  commit (.ldB x) s (s.access s.base 3 (advance 2 (s.writeBytes s.base (decimalDigits (s.reg x)))))

/-- FX55 (R407): V0..VX go to I..I + X. -/
def execStRegs (x : Reg) (s : State) : Host.Outcome State Fault Refusal :=
  commit (.stRegs x) s
    (s.access s.base (x.val + 1)
      (advance 2 ((s.writeBytes s.base (s.regs (regRange 0 x))).stepI (x.val + 1))))

/-- FX65 (R408): V0..VX come from I..I + X. -/
def execLdRegs (x : Reg) (s : State) : Host.Outcome State Fault Refusal :=
  commit (.ldRegs x) s
    (s.access s.base (x.val + 1)
      (advance 2 ((s.setRegs (regRange 0 x) (s.readBytes s.base (x.val + 1))).stepI (x.val + 1))))

/-- 5XY2 (R409): I is not changed. -/
def execStRange (x y : Reg) (s : State) : Host.Outcome State Fault Refusal :=
  commit (.stRange x y) s
    (s.access s.base (rangeLength x y) (advance 2 (s.writeBytes s.base (s.regs (regRange x y)))))

/-- 5XY3 (R410): I is not changed. -/
def execLdRange (x y : Reg) (s : State) : Host.Outcome State Fault Refusal :=
  commit (.ldRange x y) s
    (s.access s.base (rangeLength x y)
      (advance 2 (s.setRegs (regRange x y) (s.readBytes s.base (rangeLength x y)))))

end Sys2Proof.Machine
end

