-- ==== Sys2Proof/Machine/Tick.lean ====
section
/-! DEFINITION. The beginning of a tick: its inputs, the key mailbox (R722) and the fetch (R202). -/

namespace Sys2Proof.Machine

/-- The slot after a push (R722): a push fills an empty slot; at a full slot it is dropped and the older
snapshot stays. -/
def pushInto (slot push : Option Keys) : Option Keys :=
  match slot with
  | some old => some old
  | none => push

/-- The frontend pushes a snapshot (R720, R722). -/
@[simps] def State.pushKeys (s : State) (k : Keys) : State := { s with mailbox := pushInto s.mailbox (some k) }

/-- The input of the next tick: the schedule's first, else a free one. -/
def State.nextInput (s : State) : TickInput :=
  match s.inputs with
  | [] => Config.freeInput s.ticks
  | inp :: _ => inp

/-- The clock sample of the tick: never smaller than that of an earlier tick (R600). -/
def State.nextNow (s : State) : Seconds := if s.now ≤ s.nextInput.now then s.nextInput.now else s.now

/-- The keys after the drain (R722): the snapshot the slot holds, else unchanged. -/
def State.drainedKeys (s : State) : Keys :=
  match pushInto s.mailbox s.nextInput.push with
  | some k => k
  | none => s.keys

/-- The state the tick executes its instruction in: its inputs are taken (R16, R600, R313), the push that
arrived before it is in the mailbox, the engine has taken the slot without blocking (R722), and its event
output is empty. Memory, PC and the registers are as the last tick left them. -/
@[simps] def State.beginTick (s : State) : State :=
  { s with
    now := s.nextNow
    rand8 := s.nextInput.rand8
    keys := s.drainedKeys
    mailbox := none
    inputs := s.inputs.tail
    ticks := s.ticks + 1
    events := [] }

/-- The bytes at PC the fetch can read: four, or as many as lie in memory (R110, R202). -/
def State.fetchBytes (s : State) : List Byte :=
  s.readBytes s.pc.toNat (min 4 (s.cfg.memSize - s.pc.toNat))

/-- Fetch and decode at PC (R115, R202). -/
def State.fetch (s : State) : Decoded := decode s.fetchBytes

/-- A fetch that finds no opcode word (R202): `MemFault` at the first of PC, PC + 1 not below `MEM_SIZE`, the
record's opcode being 0. -/
def State.fetchFault (s : State) : State := s.takeFault 0 (.memFault (s.firstBad s.pc.toNat))

/-- 0xF000 whose second word is not in memory (R402): `MemFault` at the first of PC + 2, PC + 3 not below
`MEM_SIZE`. -/
def State.secondWordFault (s : State) : State :=
  s.takeFault longWord (.memFault (s.firstBad (s.pc.toNat + 2)))

/-- An unknown opcode (R218, R701). -/
def State.illegalFault (s : State) (w : Word) : State := s.takeFault w .decodeError

/-- Store bytes at PC, whatever stood there, and clear `halted`: what a host needs so that the next step
fetches them. -/
def State.placeAtPc (s : State) (bs : List Byte) : State :=
  { s.writeBytes s.pc.toNat bs with halted := none }

end Sys2Proof.Machine
end

