-- ==== Sys2Proof/Machine/Step.lean ====
section
/-! DEFINITION. One step of the machine: one tick of the engine (R200). -/

namespace Sys2Proof.Machine

/-- One tick (R200). A halted core answers its fault again, without reading its inputs or changing state
(R58, R710). Otherwise the tick takes its inputs, drains the key mailbox (R722), fetches (R202), decodes
(R115) and executes; every fault of the tick is taken in its next state (R700, R708). -/
def step (s : State) : Host.Outcome State Fault Refusal :=
  match s.halted with
  | some r => .fault r.kind
  | none =>
    match s.beginTick.fetch with
    | .noWord => .next s.beginTick.fetchFault
    | .noSecondWord => .next s.beginTick.secondWordFault
    | .illegal w => .next (s.beginTick.illegalFault w)
    | .instr i _ => exec i s.beginTick

/-- The state with the instruction whose bits are `w` stored at PC, where the next step fetches, and not
halted. -/
def State.withFetchWord (s : State) (nbits w : Nat) : State := s.placeAtPc (tableBytes nbits w)

end Sys2Proof.Machine
end

