-- ==== Sys2Proof/Machine/Loop.lean ====
section
/-! DEFINITION. The host interface (R720 to R729): program load, the palette, frames, and the tick loop the
host runs around the core. Nothing here changes what a tick does. Rate limits and sleeps are timing and are
left out (assumption 16). -/

namespace Sys2Proof.Machine

/-- Program load before the first tick (R802, R804): byte k of the program goes to 0x200 + k; a program
longer than `MEM_SIZE` - 0x200 bytes is rejected. -/
def State.load (s : State) (prog : List Byte) : Option State :=
  if prog.length ≤ s.cfg.memSize - 0x200 then some (s.writeBytes 0x200 prog) else none

/-- The host sets the four palette entries (R49, R720). -/
@[simps] def State.setPalette (s : State) (p : Vector Colour 4) : State := { s with palette := p }

/-- A 2-entry override sets entries 0 and 1 and leaves 2 and 3 (D32). -/
def State.setPalette2 (s : State) (c0 c1 : Colour) : State :=
  s.setPalette #v[c0, c1, s.palette[2], s.palette[3]]

/-- Offering a frame is the observation that clears `updated` (R725). -/
@[simps] def State.observe (s : State) : State := { s with updated := false }

/-- The frame policy asks for a frame after a tick that left the core in `s` (R726). -/
def State.wantsFrame (s : State) : Bool :=
  match s.cfg.framePolicy with
  | .onChange => s.updated
  | .everyTick => true

/-- Why the loop ended (R707, R721, R727, R728). -/
inductive LoopEnd where
  | fault (k : Fault)
  | channelClosed
  | audioFailure
  deriving DecidableEq, Repr

/-- The core with the host's side of the handoff channels (R721 to R728). The frame handshake is a PAIR (R723):
the signal `ready`, then the payload, which waits in `pending` from the offer until it is sent into `frame`. -/
structure Loop where
  core : State
  /-- The signal "a frame is available", sent and not yet taken by the frontend (R723). -/
  ready : Bool
  /-- The payload of the frame signalled last, not yet sent (R723). -/
  pending : Option Frame
  /-- The payload sent and not yet consumed by the frontend (R723). -/
  frame : Option Frame
  /-- The events handed to the synthesizer, oldest first (R728). -/
  heard : List AudioArm
  /-- The key mailbox's other end is open (R727). -/
  keysOpen : Bool
  /-- The frame channel's other end is open (R727). -/
  framesOpen : Bool
  /-- The audio device works (R728). -/
  audioWorks : Bool
  /-- Set when the loop has returned to its caller. -/
  ended : Option LoopEnd
  deriving DecidableEq, Repr

/-- The loop around a reset and loaded core; none when the load is rejected: no tick runs (R804, R720). -/
def Loop.start (c : Config) (t0 : Seconds) (prog : List Byte) : Option Loop :=
  ((State.resetWith c t0).load prog).map fun s =>
    { core := s, ready := false, pending := none, frame := none, heard := [], keysOpen := true, framesOpen := true
      audioWorks := true, ended := none }

/-- Under `no_skip` the engine waits until the frontend has taken the signal, and then until it has consumed
the payload (R724). -/
def Loop.waits (l : Loop) : Bool :=
  match l.core.cfg.delivery with
  | .skipFrames => false
  | .noSkip => l.ready || l.frame.isSome

/-- Offer a frame (R723, R724): the signal goes out and the payload is taken. While the frontend has not
consumed the frame before, the new one is dropped, signal and payload; that happens under `skip_frames` only. -/
def Loop.offer (l : Loop) (f : Frame) : Loop :=
  match l.frame with
  | some _ => l
  | none => { l with ready := true, pending := some f }

/-- Send the payload, after its signal (R723). -/
@[simps] def Loop.sendPayload (l : Loop) (f : Frame) : Loop := { l with pending := none, frame := some f }

/-- The frontend takes the signal (R723). -/
@[simps] def Loop.takeReady (l : Loop) : Loop := { l with ready := false }

/-- The frontend consumes the payload (R723, R724). A signal it had not taken is answered with it: DESIGN
CHOICE, assumption 15. Without a payload nothing happens. -/
def Loop.consumeFrame (l : Loop) : Loop :=
  match l.frame with
  | some _ => { l with ready := false, frame := none }
  | none => l

/-- Offer a frame after the tick, if the policy asks; the offer clears `updated` whether or not the frame is
dropped (R725, R726). -/
def Loop.deliver (l : Loop) (t : State) : Loop :=
  if t.wantsFrame then { l with core := t.observe }.offer t.toFrame else { l with core := t }

/-- After a tick that left the core in `t` (R721): a fault ends the loop, before any frame is offered;
otherwise the events go to the synthesizer and a frame may be offered. -/
def Loop.afterTick (l : Loop) (t : State) : Loop :=
  match t.halted with
  | some r => { l with core := t, ended := some (.fault r.kind) }
  | none => { l with heard := l.heard ++ t.events }.deliver t

/-- What the loop does next when nothing has ended it (R721, R723, R724): it waits, or sends the payload of the
frame it has signalled, or runs a tick, which drains the mailbox itself (R722). -/
def Loop.turn (l : Loop) : Loop :=
  if l.waits then l
  else
    match l.pending with
    | some f => l.sendPayload f
    | none =>
      match step l.core with
      | .next t => l.afterTick t
      | .fault k => { l with ended := some (.fault k) }
      | .refused _ => l

/-- One turn of the tick loop (R721). A closed channel or a failed audio device ends it and leaves the core as
the last tick made it (R727, R728). DESIGN CHOICE, assumption 20: both are noticed at the head of the turn, and
a closed channel is the end that is reported when both hold. -/
def Loop.iterate (l : Loop) : Loop :=
  if l.ended.isSome then l
  else if !(l.keysOpen && l.framesOpen) then { l with ended := some .channelClosed }
  else if !l.audioWorks then { l with ended := some .audioFailure }
  else l.turn

/-- What the world outside may do (R720); an action not listed is one the core never sees. -/
inductive HostAction where
  /-- the loop runs one turn -/
  | iterate
  /-- the frontend pushes a key snapshot -/
  | pushKeys (k : Keys)
  /-- the frontend takes the signal that a frame is available -/
  | takeReady
  /-- the frontend consumes the frame's payload -/
  | consumeFrame
  /-- the host sets the four palette entries -/
  | setPalette (p : Vector Colour 4)
  /-- the host sets the first two palette entries -/
  | setPalette2 (c0 c1 : Colour)
  /-- the frontend closes the key mailbox -/
  | closeKeys
  /-- the frontend closes the frame channel -/
  | closeFrames
  /-- the audio device fails -/
  | failAudio
  deriving DecidableEq, Repr

/-- The effect of an action on the loop (R720 to R728). -/
def Loop.act (l : Loop) : HostAction → Loop
  | .iterate => l.iterate
  | .pushKeys k => { l with core := l.core.pushKeys k }
  | .takeReady => l.takeReady
  | .consumeFrame => l.consumeFrame
  | .setPalette p => { l with core := l.core.setPalette p }
  | .setPalette2 c0 c1 => { l with core := l.core.setPalette2 c0 c1 }
  | .closeKeys => { l with keysOpen := false }
  | .closeFrames => { l with framesOpen := false }
  | .failAudio => { l with audioWorks := false }

end Sys2Proof.Machine
end

