-- ==== Sys2Proof/Safety.lean ====
section
/-! DEFINITION. What counts as a safe run, in the terms the claims use. -/

namespace Sys2Proof.Machine

/-- The core runs: no fault has been taken (R58). -/
def State.running (s : State) : Prop := s.halted = none

/-- The next tick takes no fault. -/
def SafeTick (s : State) : Prop := ∃ t, step s = .next t ∧ t.running

/-- `t` is reached from `s` by `n` ticks, none of which takes a fault. -/
def SafeRun : Nat → State → State → Prop
  | 0, s, t => s = t
  | n + 1, s, t => ∃ u, step s = .next u ∧ u.running ∧ SafeRun n u t

/-- What every reachable state meets: the parameters are the spec's, memory is in canonical form (R40, R86),
SP counts at most 16 entries (R39), the planes are `NUM_PLANES` bitmaps of the mode's dimensions (R47), the
mask uses bits 1:0 only (R48), and the timers count at the fixed rate from an instant not in the future
(R51, R600). -/
structure State.Inv (s : State) : Prop where
  cfg : s.cfg.wf = true
  mem : s.mem.wf (resetByte s.cfg) s.cfg.memSize = true
  sp : s.sp.toNat ≤ 16
  planeCount : s.planes.length = s.cfg.numPlanes
  planeDims : ∀ b ∈ s.planes, bitmapFits s.mode b = true
  mask : s.activePlanes.toNat < 4
  dtRate : s.dt.tickFrequencyHz = s.cfg.timerFreqHz ∧ s.dt.speedMultiplier = s.cfg.speedMult
  stRate : s.st.tickFrequencyHz = s.cfg.timerFreqHz ∧ s.st.speedMultiplier = s.cfg.speedMult
  dtPast : s.dt.startInstant ≤ s.dt.lastSetInstant ∧ s.dt.lastSetInstant ≤ s.now
  stPast : s.st.startInstant ≤ s.st.lastSetInstant ∧ s.st.lastSetInstant ≤ s.now

/-! ### Frames -/

/-- The parts of the state other than the registers, PC and the tick's result. -/
inductive Part where
  | i
  | stack
  | sp
  | mem
  | mode
  | planes
  | activePlanes
  | palette
  | updated
  | updates
  | dt
  | st
  | keys
  | prevKeys
  | pattern
  | halted
  | mailbox
  | cfg
  | now
  | rand8
  | inputs
  | ticks
  | events
  deriving DecidableEq, Repr

/-- A part is the same in both states; memory is compared by reading every byte. -/
def Part.same (s t : State) : Part → Prop
  | .i => t.i = s.i
  | .stack => t.stack = s.stack
  | .sp => t.sp = s.sp
  | .mem => ∀ a, t.readByte a = s.readByte a
  | .mode => t.mode = s.mode
  | .planes => t.planes = s.planes
  | .activePlanes => t.activePlanes = s.activePlanes
  | .palette => t.palette = s.palette
  | .updated => t.updated = s.updated
  | .updates => t.updates = s.updates
  | .dt => t.dt = s.dt
  | .st => t.st = s.st
  | .keys => t.keys = s.keys
  | .prevKeys => t.prevKeys = s.prevKeys
  | .pattern => t.pattern = s.pattern
  | .halted => t.halted = s.halted
  | .mailbox => t.mailbox = s.mailbox
  | .cfg => t.cfg = s.cfg
  | .now => t.now = s.now
  | .rand8 => t.rand8 = s.rand8
  | .inputs => t.inputs = s.inputs
  | .ticks => t.ticks = s.ticks
  | .events => t.events = s.events

/-- Every part is the same but those listed. -/
def OnlyChanges (ps : List Part) (s t : State) : Prop := ∀ p, p ∉ ps → p.same s t

/-- Every register is the same but those listed. -/
def RegsKept (xs : List Reg) (s t : State) : Prop := ∀ r, r ∉ xs → t.reg r = s.reg r

/-! ### Forms of completion -/

/-- The tick takes fault `k`: it answers the state before with nothing changed but `halted`, which holds the
record (kind, opcode, pc), and the tick's result (R58, R700). -/
def Faults (i : Instr) (s : State) (k : Fault) : Prop :=
  exec i s = .next { s with halted := some ⟨k, opcodeOf i, s.pc⟩, result := some (.fault k) }

/-- The instruction ends with `advance(n)` (R17, R203): unless PC + n is above 0xFFFF it completes in a state
with PC moved on by n that meets `P`; else it takes `PcOverflow`. -/
def Advances (i : Instr) (s : State) (n : Nat) (P : State → Prop) : Prop :=
  (s.pc.toNat + n ≤ 0xFFFF →
    ∃ t, exec i s = .next t ∧ t.result = some .executed ∧ t.pc.toNat = s.pc.toNat + n ∧ P t)
  ∧ (0xFFFF < s.pc.toNat + n → Faults i s .pcOverflow)

/-- The instruction accesses the `n` bytes at `a`, n not 0, and then advances by 2: when one of them is not
below `MEM_SIZE` it takes `MemFault` with the first such address instead (R86). -/
def Accesses (i : Instr) (s : State) (a n : Nat) (P : State → Prop) : Prop :=
  (a + n ≤ s.cfg.memSize → Advances i s 2 P)
  ∧ (s.cfg.memSize < a + n → Faults i s (.memFault (max a s.cfg.memSize)))

/-- `skip_if(c)` (R204), changing nothing but PC: not taken, PC + 2; taken, past the instruction at PC + 2,
which is 4 bytes for the word 0xF000 and 2 for any other; the look-ahead is made, and can fault, only when
the skip is taken. -/
def SkipsIf (c : Prop) (i : Instr) (s : State) : Prop :=
  let kept := fun t : State => RegsKept [] s t ∧ OnlyChanges [] s t
  (¬ c → Advances i s 2 kept)
  ∧ (c → s.pc.toNat + 3 < s.cfg.memSize → s.word16 (s.pc.toNat + 2) ≠ 0xF000 → Advances i s 4 kept)
  ∧ (c → s.pc.toNat + 3 < s.cfg.memSize → s.word16 (s.pc.toNat + 2) = 0xF000 → Advances i s 6 kept)
  ∧ (c → s.cfg.memSize ≤ s.pc.toNat + 3 → Faults i s (.memFault (max (s.pc.toNat + 2) s.cfg.memSize)))

/-- The word with these four nibbles is the instruction (R111, R116). -/
def Reads (g x y n : Nat) (i : Instr) : Prop := decodeWord (ofNibbles g x y n) = some i

end Sys2Proof.Machine
end

