-- ==== Sys2Proof/Certificates/Slice0/Obligations.lean ====
section
/-! DEFINITION. The statements for the provers. `Advances`, `Accesses`, `SkipsIf`, `Faults`, `Reads`,
`OnlyChanges` and `RegsKept` stand in Safety.lean. A statement over every state is a statement over every
choice of the parameters, which stand in the state. A fault is taken in a NEXT state that holds its record, in
every statement about one: the model's choice of form (assumption 4). -/

open Sys2Proof Sys2Proof.Machine

/-- Words written out from the opcode table decode to their instructions. Rests on 30_encoding.md section 3
(rule R116). -/
def Obligations.FamilyWordsDecodeAsTheTableSays : Prop :=
  decode [0x00, 0xC3] = .instr (.scd 3) [] ∧ decode [0x00, 0xEE] = .instr .ret []
  ∧ decode [0x23, 0x45] = .instr (.call 0x345) [] ∧ decode [0x5A, 0xB2] = .instr (.stRange 0xA 0xB) []
  ∧ decode [0x6C, 0x7F] = .instr (.ldImm 0xC 0x7F) [] ∧ decode [0x81, 0x2E] = .instr (.shl 1 2) []
  ∧ decode [0xD1, 0x25] = .instr (.drw 1 2 5) [] ∧ decode [0xE3, 0xA1] = .instr (.sknp 3) []
  ∧ decode [0xF0, 0x00, 0x12, 0x34] = .instr (.ldILong 0x1234) [] ∧ decode [0xF3, 0x01] = .instr (.plane 3) []
  ∧ decode [0xF0, 0x02] = .instr .audio [] ∧ decode [0xF4, 0x65] = .instr (.ldRegs 4) []

/-- Decoding the bytes of a well-formed instruction gives it back. Rests on 30_encoding.md section 3 (rule
R116); 30_encoding.md section 6 (rule R124). -/
def Obligations.DecodeOfEncodeIsTheInstruction : Prop :=
  ∀ (i : Instr) (rest : List Byte), i.wf = true → decode (encodeBytes i ++ rest) = .instr i rest

/-- Every byte string that decodes is the encoding of the instruction it decodes to. Rests on
30_encoding.md section 3 (rules R110, R115, R116); 30_encoding.md section 6 (rule R124). -/
def Obligations.EncodeOfDecodeGivesTheBytesBack : Prop :=
  ∀ (bs rest : List Byte) (i : Instr), decode bs = .instr i rest → i.wf = true ∧ bs = encodeBytes i ++ rest

/-- A word decodes by the one row of the table it matches, and an unmatched word takes DecodeError. Rests
on 30_encoding.md section 3 (rule R115); 60_exceptions.md section 1 (rules R700, R701). In the last clause,
that the faulting tick answers a next state and that the inputs and the drained mailbox of that tick stay
(`beginTick`) are the model's, not R115's: assumptions 4 and 5. -/
def Obligations.EveryWordMatchesAtMostOneRowOrIsIllegal : Prop :=
  (∀ (w : Word) (r₁ r₂ : OpcodeRow), r₁ ∈ opcodeRows → r₂ ∈ opcodeRows → w &&& r₁.mask = r₁.pattern →
      w &&& r₂.mask = r₂.pattern → r₁ = r₂)
  ∧ (∀ w : Word, (∃ r ∈ opcodeRows, w &&& r.mask = r.pattern) ↔ (w = 0xF000 ∨ ∃ i, decodeWord w = some i))
  ∧ (∀ (w : Word) (i : Instr), decodeWord w = some i →
      ∃ r ∈ opcodeRows, r.mnemonic = i.mnemonic ∧ w &&& r.mask = r.pattern)
  ∧ (∀ s : State, s.halted = none → s.pc.toNat + 1 < s.cfg.memSize →
      (∀ r ∈ opcodeRows, s.word16 s.pc.toNat &&& r.mask ≠ r.pattern) →
      step s = .next (s.beginTick.takeFault (s.word16 s.pc.toNat) .decodeError))

/-- A step executes the instruction in memory at PC on the tick's inputs; where these come from and the
clock's clamp are the model's choice (log 3, 5). Rests on 40_control.md section 1 (rules R200, R202);
20_memory.md section 1 (rules R80, R81); 42_memory_ops.md section 2 (rule R402); 60_exceptions.md section 6
(rule R722); 00_scope.md section 4 (rule R16); 41_alu.md section 5 (rule R313); 44_timers_keys_audio.md
sections 1 and 3 (rules R600, R613). The model's choice: the schedule of inputs, the free value that stands
for an input it does not give, and the counter of ticks (assumption 3); a clock sample below the last is
replaced by the last (assumption 5). -/
def Obligations.StepRunsTheDecodedInstruction : Prop :=
  ∀ s : State, s.halted = none →
    (∀ (i : Instr) (rest : List Byte), decode s.fetchBytes = .instr i rest → step s = exec i s.beginTick)
    ∧ (∀ i : Instr, s.pc.toNat + 1 < s.cfg.memSize → s.word16 s.pc.toNat ≠ 0xF000 →
        decodeWord (s.word16 s.pc.toNat) = some i → step s = exec i s.beginTick)
    ∧ (s.pc.toNat + 3 < s.cfg.memSize → s.word16 s.pc.toNat = 0xF000 →
        step s = exec (.ldILong ((s.readByte (s.pc.toNat + 2)).toNat * 256
          + (s.readByte (s.pc.toNat + 3)).toNat)) s.beginTick)
    ∧ s.beginTick.pc = s.pc ∧ RegsKept [] s s.beginTick
    ∧ OnlyChanges [.keys, .mailbox, .now, .rand8, .inputs, .ticks, .events] s s.beginTick
    ∧ (s.now ≤ s.nextInput.now → s.beginTick.now = s.nextInput.now)
    ∧ (s.nextInput.now < s.now → s.beginTick.now = s.now)
    ∧ s.beginTick.rand8 = s.nextInput.rand8 ∧ s.beginTick.events = [] ∧ s.beginTick.ticks = s.ticks + 1
    ∧ (∀ (inp : TickInput) (later : List TickInput), s.inputs = inp :: later →
        s.nextInput = inp ∧ s.beginTick.inputs = later)
    ∧ (s.inputs = [] → s.nextInput = Config.freeInput s.ticks ∧ s.beginTick.inputs = [])

/-- Once halted, every later tick returns the same fault. Rule R710. That the tick of a halted core returns
its fault as the outcome `fault` is the form of assumption 4. -/
def Obligations.HaltedCoreAnswersItsFaultForEver : Prop :=
  ∀ (s : State) (r : FaultRecord) (n : Nat), s.halted = some r →
    step s = .fault r.kind ∧ Host.Core.run Sys2Proof.core (n + 1) s = .fault r.kind

/-- The fetch reads the bytes from PC on as the last tick left them, or takes MemFault; two bytes ahead are
read with them (log 10). Rests on 40_control.md section 1 (rule R202). That the faulting tick answers a
next state and that its inputs and drained mailbox stay (`beginTick`) are the model's choice: assumptions 4
and 5; that the bytes at PC + 2 and PC + 3 are read with the opcode word is assumption 10. -/
def Obligations.FetchReadsTwoBytesOrFaults : Prop :=
  ∀ s : State, s.halted = none →
    (s.pc.toNat + 1 < s.cfg.memSize →
      s.beginTick.fetchBytes.length = min 4 (s.cfg.memSize - s.pc.toNat)
      ∧ (∀ k, k < 4 → s.pc.toNat + k < s.cfg.memSize →
          s.beginTick.fetchBytes[k]? = some (s.readByte (s.pc.toNat + k)))
      ∧ (s.word16 s.pc.toNat).toNat
          = (s.readByte s.pc.toNat).toNat * 256 + (s.readByte (s.pc.toNat + 1)).toNat)
    ∧ (s.cfg.memSize ≤ s.pc.toNat + 1 →
      step s = .next (s.beginTick.takeFault 0 (.memFault (max s.pc.toNat s.cfg.memSize))))

/-- F000 whose second word is not in memory takes MemFault; that the tick's inputs and drain stay is the
model's choice (log 5). Rests on 42_memory_ops.md section 2 (rule R402); 60_exceptions.md section 1 (rule
R702). The next state keeps the drain of the faulting tick (`beginTick`): the model's choice, assumptions 4
and 5. -/
def Obligations.LongLoadWithoutItsSecondWordFaults : Prop :=
  ∀ s : State, s.halted = none → s.pc.toNat + 1 < s.cfg.memSize → s.word16 s.pc.toNat = 0xF000 →
    s.cfg.memSize ≤ s.pc.toNat + 3 →
    step s = .next (s.beginTick.takeFault 0xF000 (.memFault (max (s.pc.toNat + 2) s.cfg.memSize)))

/-- A tick of a core that is not halted always answers a next state and nothing is refused. Rests on
40_control.md section 1 (rules R200, R205); 60_exceptions.md section 4 (rule R712). That a faulting tick
answers NEXT, so that next holds exactly when the core was not halted, is the model's choice of the form of
the outcome: assumption 4. -/
def Obligations.StepAnswersNextUnlessHalted : Prop :=
  (∀ s : State, (∃ t, step s = .next t) ↔ s.halted = none)
  ∧ (∀ (s : State) (r : Refusal), step s ≠ .refused r)
  ∧ (∀ (i : Instr) (s : State), ∃ t, exec i s = .next t)

/-- A faulting tick changes only its record, its result and the inputs it took; these staying (log 5) and
the outcome's form (log 4) are the model's choice. Rests on 10_state.md section 14 (rule R58);
60_exceptions.md sections 1 and 3 (rules R700, R709, R710). The model's choice, not R700's words: the
inputs and the drained mailbox of the faulting tick stay (`beginTick`, assumption 5), and the faulting tick
answers a next state while the next one answers `fault` (assumption 4). -/
def Obligations.FaultsArePreciseAndStopTheCore : Prop :=
  ∀ s t : State, s.halted = none → step s = .next t →
    (t.halted = none ∧ (t.result = some .executed ∨ t.result = some .blocked))
    ∨ ∃ (k : Fault) (w : Word),
        t = { s.beginTick with halted := some ⟨k, w, s.pc⟩, result := some (.fault k) }
        ∧ ((s.pc.toNat + 1 < s.cfg.memSize ∧ w = s.word16 s.pc.toNat) ∨ (s.cfg.memSize ≤ s.pc.toNat + 1 ∧ w = 0))
        ∧ t.pc = s.pc ∧ t.events = [] ∧ step t = .fault k

/-- Only the instructions rule R702 names raise each fault. Rests on 60_exceptions.md section 1 (rule
R702). -/
def Obligations.EachFaultComesFromItsInstructions : Prop :=
  ∀ (i : Instr) (s t : State) (k : Fault), s.sp.toNat ≤ 16 → exec i s = .next t → t.result = some (.fault k) →
    match k with
    | .decodeError => False
    | .memFault a => s.cfg.memSize ≤ a ∧ i.mnemonic ∈
        ["LD_I__NNNN", "SE_VX__NN", "SNE_VX__NN", "SE_VX__VY", "SNE_VX__VY", "SKP_VX", "SKNP_VX",
         "DRW_VX__VY__N", "LD_B__VX", "LD__I___VX", "LD_VX___I", "LD__I___VX-VY", "LD_VX-VY___I", "AUDIO"]
    | .stackOverflow => (∃ nnn, i = .call nnn) ∧ s.sp = 16
    | .stackUnderflow => i = .ret ∧ s.sp = 0
    | .keyIndexFault b => (∃ x, (i = .skp x ∨ i = .sknp x) ∧ s.reg x = b) ∧ 15 < b.toNat
    | .pcOverflow => i.mnemonic ∉ ["JP_NNN", "CALL_NNN", "JP_V0__NNN"]

/-- Every tick keeps the machine's invariant. Rests on 20_memory.md sections 3 and 4; 10_state.md sections
6, 7, 8 and 9 (rules R39, R40, R47, R48, R51); 44_timers_keys_audio.md section 1 (rule R600). -/
def Obligations.StepKeepsTheInvariant : Prop :=
  ∀ s t : State, s.Inv → step s = .next t → t.Inv

/-- Reset meets the invariant for every choice of parameters; the defaults and instant 0 are the model's
choice (log 1, 2, 7). Rests on 10_state.md section 13 (rule R57); 70_reset_and_hazards.md section 1 (rule
R800). -/
def Obligations.ResetMeetsTheInvariant : Prop :=
  State.reset = State.resetWith defaultConfig 0 ∧ defaultConfig.wf = true ∧ State.reset.Inv
  ∧ ∀ (c : Config) (t0 : Seconds), c.wf = true → (State.resetWith c t0).Inv

/-- No tick turns the clock back (the model's clamp, log 5), and none changes the parameters or the
palette. Rests on 44_timers_keys_audio.md section 1 (rule R600); 10_state.md section 8 (rule R49);
00_scope.md section 3 (rule R8). That `now` never falls whatever the host sends rests on the clamp of
`State.nextNow`, the model's choice (assumption 5): R600 and R720 put monotonicity on the host. -/
def Obligations.ClockIsMonotoneAndTheHostsFieldsStay : Prop :=
  ∀ s t : State, step s = .next t → s.now ≤ t.now ∧ t.cfg = s.cfg ∧ t.palette = s.palette

/-- No instruction but FX33, FX55 and 5XY2 changes a byte of memory. Rests on 10_state.md section 7 (rule
R41). -/
def Obligations.OnlyStoresWriteMemory : Prop :=
  ∀ (i : Instr) (s t : State), exec i s = .next t →
    i.mnemonic ∉ ["LD_B__VX", "LD__I___VX", "LD__I___VX-VY"] → ∀ a, t.readByte a = s.readByte a

/-- Only the instructions the spec names write I, the stack, the mode, the mask, the timers, the key state
and the pattern. Rests on 10_state.md sections 4, 6, 8, 9, 10, 11 (rules R35, R37, R46, R48, R54, R55);
44_timers_keys_audio.md section 1 (rule R605). -/
def Obligations.EachPieceOfStateHasItsWriters : Prop :=
  ∀ (i : Instr) (s t : State), exec i s = .next t →
    (t.i ≠ s.i → i.mnemonic ∈ ["LD_I__NNN", "LD_I__NNNN", "ADD_I__VX", "LD_F__VX", "LD_HF__VX"]
      ∨ (s.cfg.loadStoreIncrementsI = true ∧ i.mnemonic ∈ ["LD__I___VX", "LD_VX___I"]))
    ∧ (t.stack ≠ s.stack → i.mnemonic = "CALL_NNN")
    ∧ (t.sp ≠ s.sp → i.mnemonic ∈ ["CALL_NNN", "RET"])
    ∧ (t.mode ≠ s.mode → i.mnemonic ∈ ["LOW", "HIGH"])
    ∧ (t.activePlanes ≠ s.activePlanes → i.mnemonic = "PLANE_X")
    ∧ (t.prevKeys ≠ s.prevKeys → i.mnemonic = "LD_VX__K")
    ∧ (t.pattern ≠ s.pattern → i.mnemonic = "AUDIO")
    ∧ (t.dt ≠ s.dt → i.mnemonic = "LD_DT__VX")
    ∧ (t.st ≠ s.st ∨ t.events ≠ s.events → i.mnemonic = "LD_ST__VX")
    ∧ (t.planes ≠ s.planes → i.mnemonic ∈ ["CLS", "DRW_VX__VY__N", "SCD_N", "SCU_N", "SCR", "SCL", "LOW", "HIGH"])
    ∧ t.keys = s.keys

/-- Exactly the eight display instructions set updated and count one update. Rests on 10_state.md section 8
(rule R50); 43_display.md section 1 (rule R501). -/
def Obligations.UpdatesCountTheDisplayInstructions : Prop :=
  ∀ (i : Instr) (s t : State), exec i s = .next t → t.result = some .executed →
    (i.mnemonic ∈ ["CLS", "DRW_VX__VY__N", "SCD_N", "SCU_N", "SCR", "SCL", "LOW", "HIGH"] →
      t.updated = true ∧ t.updates = s.updates + 1)
    ∧ (i.mnemonic ∉ ["CLS", "DRW_VX__VY__N", "SCD_N", "SCU_N", "SCR", "SCL", "LOW", "HIGH"] →
      t.updated = s.updated ∧ t.updates = s.updates)

/-- JP NNN and JP V0, NNN set PC and nothing else. Rule R210, R213. -/
def Obligations.JumpsSetPc : Prop :=
  ∀ (s : State) (nnn : Nat), nnn ≤ 0xFFF →
    Reads 0x1 (nnn / 256) (nnn / 16 % 16) (nnn % 16) (.jp nnn)
    ∧ Reads 0xB (nnn / 256) (nnn / 16 % 16) (nnn % 16) (.jpV0 nnn)
    ∧ (∃ t, exec (.jp nnn) s = .next t ∧ t.result = some .executed ∧ t.pc.toNat = nnn
        ∧ RegsKept [] s t ∧ OnlyChanges [] s t)
    ∧ (∃ t, exec (.jpV0 nnn) s = .next t ∧ t.result = some .executed ∧ t.pc.toNat = nnn + (s.reg 0).toNat
        ∧ RegsKept [] s t ∧ OnlyChanges [] s t)

/-- CALL NNN pushes its address and jumps, or takes StackOverflow. Rule R211. -/
def Obligations.CallPushesItsOwnAddress : Prop :=
  ∀ (s : State) (nnn : Nat), nnn ≤ 0xFFF →
    Reads 0x2 (nnn / 256) (nnn / 16 % 16) (nnn % 16) (.call nnn)
    ∧ (∀ _h : s.sp.toNat < 16, ∃ t, exec (.call nnn) s = .next t ∧ t.result = some .executed ∧ t.pc.toNat = nnn
        ∧ t.sp.toNat = s.sp.toNat + 1
        ∧ (∀ k : Fin 16, t.stack[k] = if k.val = s.sp.toNat then s.pc else s.stack[k])
        ∧ RegsKept [] s t ∧ OnlyChanges [.stack, .sp] s t)
    ∧ (s.sp.toNat = 16 → Faults (.call nnn) s .stackOverflow)

/-- RET pops the CALL's address and resumes 2 after it. Rule R212. -/
def Obligations.ReturnResumesAfterTheCall : Prop :=
  Reads 0x0 0x0 0xE 0xE .ret
  ∧ ∀ s : State,
    (s.sp = 0 → Faults .ret s .stackUnderflow)
    ∧ ∀ k : Fin 16, s.sp.toNat = k.val + 1 →
      (s.stack[k].toNat + 2 ≤ 0xFFFF → ∃ t, exec .ret s = .next t ∧ t.result = some .executed
        ∧ t.pc.toNat = s.stack[k].toNat + 2 ∧ t.sp.toNat = k.val ∧ RegsKept [] s t ∧ OnlyChanges [.sp] s t)
      ∧ (0xFFFF < s.stack[k].toNat + 2 → Faults .ret s .pcOverflow)

/-- A CALL followed by a RET resumes at the CALL's address plus 2 with SP restored. Rests on 40_control.md
section 2 (rules R211, R212); 90_conflicts.md C1. -/
def Obligations.CallThenReturnComesBackTwoFurther : Prop :=
  ∀ (s : State) (nnn : Nat), s.sp.toNat < 16 → s.pc.toNat + 2 ≤ 0xFFFF →
    ∃ t u, exec (.call nnn) s = .next t ∧ exec .ret t = .next u ∧ u.result = some .executed
      ∧ u.pc.toNat = s.pc.toNat + 2 ∧ u.sp = s.sp ∧ RegsKept [] s u ∧ OnlyChanges [.stack] s u

/-- The four register and immediate skips move PC by 2, 4 or 6. Rule R204, R214, R215, R216, R217. -/
def Obligations.RegisterSkipsJumpOneWholeInstruction : Prop :=
  ∀ (s : State) (x y : Reg) (nn : Nat), nn ≤ 255 →
    Reads 0x3 x.val (nn / 16) (nn % 16) (.seImm x nn) ∧ SkipsIf ((s.reg x).toNat = nn) (.seImm x nn) s
    ∧ Reads 0x4 x.val (nn / 16) (nn % 16) (.sneImm x nn) ∧ SkipsIf ((s.reg x).toNat ≠ nn) (.sneImm x nn) s
    ∧ Reads 0x5 x.val y.val 0 (.seReg x y) ∧ SkipsIf (s.reg x = s.reg y) (.seReg x y) s
    ∧ Reads 0x9 x.val y.val 0 (.sneReg x y) ∧ SkipsIf (s.reg x ≠ s.reg y) (.sneReg x y) s

/-- LD VX, NN, ADD VX, NN and LD VX, VY write VX and leave VF as a flag alone. Rule R301, R302, R303. -/
def Obligations.RegisterLoadsAndAddImmediate : Prop :=
  ∀ (s : State) (x y : Reg) (nn : Nat), nn ≤ 255 →
    Reads 0x6 x.val (nn / 16) (nn % 16) (.ldImm x nn)
    ∧ Advances (.ldImm x nn) s 2 (fun t => (t.reg x).toNat = nn ∧ RegsKept [x] s t ∧ OnlyChanges [] s t)
    ∧ Reads 0x7 x.val (nn / 16) (nn % 16) (.addImm x nn)
    ∧ Advances (.addImm x nn) s 2 (fun t => (t.reg x).toNat = ((s.reg x).toNat + nn) % 256
        ∧ RegsKept [x] s t ∧ OnlyChanges [] s t)
    ∧ Reads 0x8 x.val y.val 0 (.ldReg x y)
    ∧ Advances (.ldReg x y) s 2 (fun t => t.reg x = s.reg y ∧ RegsKept [x] s t ∧ OnlyChanges [] s t)

/-- OR, AND and XOR combine VX and VY bit by bit, with VF as LOGIC_VF_RESET says. Rule R304, R305, R306,
R307. -/
def Obligations.LogicInstructionsCombineBitwise : Prop :=
  ∀ (s : State) (x y : Reg),
    let meets := fun (f : Bool → Bool → Bool) (t : State) =>
      (s.cfg.logicVfReset = true → t.reg 15 = 0)
      ∧ (¬ (s.cfg.logicVfReset = true ∧ x = 15) → ∀ k, k < 8 →
          (t.reg x).getLsbD k = f ((s.reg x).getLsbD k) ((s.reg y).getLsbD k))
      ∧ (∀ r, r ≠ x → ¬ (s.cfg.logicVfReset = true ∧ r = 15) → t.reg r = s.reg r) ∧ OnlyChanges [] s t
    Reads 0x8 x.val y.val 1 (.orReg x y) ∧ Advances (.orReg x y) s 2 (meets (fun a b => a || b))
    ∧ Reads 0x8 x.val y.val 2 (.andReg x y) ∧ Advances (.andReg x y) s 2 (meets (fun a b => a && b))
    ∧ Reads 0x8 x.val y.val 3 (.xorReg x y) ∧ Advances (.xorReg x y) s 2 (meets (fun a b => a ^^ b))

/-- ADD VX, VY wraps at 256 and sets VF to the carry. Rule R308. -/
def Obligations.AddSetsVfOnCarry : Prop :=
  ∀ (s : State) (x y : Reg),
    let meets := fun (value : Nat) (flag : Prop) (t : State) =>
      (x ≠ 15 → (t.reg x).toNat = value) ∧ (flag → t.reg 15 = 1) ∧ (¬ flag → t.reg 15 = 0)
      ∧ RegsKept [x, 15] s t ∧ OnlyChanges [] s t
    Reads 0x8 x.val y.val 4 (.addReg x y)
    ∧ Advances (.addReg x y) s 2
        (meets (((s.reg x).toNat + (s.reg y).toNat) % 256) (255 < (s.reg x).toNat + (s.reg y).toNat))

/-- SUB and SUBN wrap at 256 and set VF to 1 exactly when no borrow occurred. Rule R309, R311. -/
def Obligations.SubtractionsSetVfOnNoBorrow : Prop :=
  ∀ (s : State) (x y : Reg),
    let meets := fun (value : Nat) (flag : Prop) (t : State) =>
      (x ≠ 15 → (t.reg x).toNat = value) ∧ (flag → t.reg 15 = 1) ∧ (¬ flag → t.reg 15 = 0)
      ∧ RegsKept [x, 15] s t ∧ OnlyChanges [] s t
    Reads 0x8 x.val y.val 5 (.subReg x y)
    ∧ Advances (.subReg x y) s 2
        (meets (((s.reg x).toNat + 256 - (s.reg y).toNat) % 256) ((s.reg y).toNat ≤ (s.reg x).toNat))
    ∧ Reads 0x8 x.val y.val 7 (.subn x y)
    ∧ Advances (.subn x y) s 2
        (meets (((s.reg y).toNat + 256 - (s.reg x).toNat) % 256) ((s.reg x).toNat ≤ (s.reg y).toNat))

/-- SHR and SHL shift VY into VX and set VF to the bit shifted out. Rule R310, R312. -/
def Obligations.ShiftsTakeVyAndSetVfToTheBitShiftedOut : Prop :=
  ∀ (s : State) (x y : Reg),
    let meets := fun (value : Nat) (flag : Prop) (t : State) =>
      (x ≠ 15 → (t.reg x).toNat = value) ∧ (flag → t.reg 15 = 1) ∧ (¬ flag → t.reg 15 = 0)
      ∧ RegsKept [x, 15] s t ∧ OnlyChanges [] s t
    Reads 0x8 x.val y.val 6 (.shr x y)
    ∧ Advances (.shr x y) s 2 (meets ((s.reg y).toNat / 2) ((s.reg y).toNat % 2 = 1))
    ∧ Reads 0x8 x.val y.val 0xE (.shl x y)
    ∧ Advances (.shl x y) s 2 (meets ((s.reg y).toNat * 2 % 256) (128 ≤ (s.reg y).toNat))

/-- RND VX, NN writes the tick's random byte ANDed with NN. Rule R314. -/
def Obligations.RandomIsTheDrawUnderTheMask : Prop :=
  ∀ (s : State) (x : Reg) (nn : Nat), nn ≤ 255 →
    Reads 0xC x.val (nn / 16) (nn % 16) (.rnd x nn)
    ∧ Advances (.rnd x nn) s 2 (fun t =>
        (∀ k, k < 8 → (t.reg x).getLsbD k = (s.rand8.getLsbD k && nn.testBit k))
        ∧ RegsKept [x] s t ∧ OnlyChanges [] s t)

/-- ANNN, FX1E, FX29 and FX30 set I and nothing else. Rule R401, R403, R404, R405. -/
def Obligations.InstructionsThatSetI : Prop :=
  ∀ (s : State) (x : Reg) (nnn : Nat), nnn ≤ 0xFFF → s.cfg.fontSmallBase + 80 ≤ 0x200 →
    s.cfg.fontBigBase + 160 ≤ 0x200 →
    let meets := fun (value : Nat) (t : State) => t.i.toNat = value ∧ RegsKept [] s t ∧ OnlyChanges [.i] s t
    Reads 0xA (nnn / 256) (nnn / 16 % 16) (nnn % 16) (.ldI nnn) ∧ Advances (.ldI nnn) s 2 (meets nnn)
    ∧ Reads 0xF x.val 1 0xE (.addI x)
    ∧ Advances (.addI x) s 2 (meets ((s.i.toNat + (s.reg x).toNat) % 65536))
    ∧ Reads 0xF x.val 2 9 (.ldF x)
    ∧ Advances (.ldF x) s 2 (meets (s.cfg.fontSmallBase + 5 * ((s.reg x).toNat % 16)))
    ∧ Reads 0xF x.val 3 0 (.ldHf x)
    ∧ Advances (.ldHf x) s 2 (meets (s.cfg.fontBigBase + 10 * ((s.reg x).toNat % 16)))

/-- F000 NNNN sets I to the big-endian second word and moves PC by 4. Rests on 42_memory_ops.md section 2
(rule R402); 20_memory.md section 1 (rule R81). -/
def Obligations.LongLoadSetsIFromTheSecondWord : Prop :=
  ∀ (s : State) (hi lo : Byte) (rest : List Byte),
    let nnnn := hi.toNat * 256 + lo.toNat
    decode (0xF0 :: 0x00 :: hi :: lo :: rest) = .instr (.ldILong nnnn) rest
    ∧ (s.pc.toNat + 3 < s.cfg.memSize →
        Advances (.ldILong nnnn) s 4 (fun t => t.i.toNat = nnnn ∧ RegsKept [] s t ∧ OnlyChanges [.i] s t))
    ∧ (s.cfg.memSize ≤ s.pc.toNat + 3 →
        Faults (.ldILong nnnn) s (.memFault (max (s.pc.toNat + 2) s.cfg.memSize)))

/-- LD B, VX stores the three decimal digits of VX at I, I + 1 and I + 2. Rule R406. -/
def Obligations.DecimalStoreWritesThreeDigits : Prop :=
  ∀ (s : State) (x : Reg),
    Reads 0xF x.val 3 3 (.ldB x)
    ∧ Accesses (.ldB x) s s.i.toNat 3 (fun t =>
        (t.readByte s.i.toNat).toNat = (s.reg x).toNat / 100
        ∧ (t.readByte (s.i.toNat + 1)).toNat = (s.reg x).toNat / 10 % 10
        ∧ (t.readByte (s.i.toNat + 2)).toNat = (s.reg x).toNat % 10
        ∧ (∀ a, a < s.i.toNat ∨ s.i.toNat + 2 < a → t.readByte a = s.readByte a)
        ∧ RegsKept [] s t ∧ OnlyChanges [.mem] s t)

/-- LD [I], VX stores V0..VX from I on and moves I as LOADSTORE_INCREMENTS_I says. Rule R407. -/
def Obligations.StoreRegistersWritesV0ToVX : Prop :=
  ∀ (s : State) (x : Reg),
    Reads 0xF x.val 5 5 (.stRegs x)
    ∧ Accesses (.stRegs x) s s.i.toNat (x.val + 1) (fun t =>
        (∀ k : Reg, k.val ≤ x.val → t.readByte (s.i.toNat + k.val) = s.reg k)
        ∧ (∀ a, a < s.i.toNat ∨ s.i.toNat + x.val < a → t.readByte a = s.readByte a)
        ∧ (s.cfg.loadStoreIncrementsI = true → t.i.toNat = (s.i.toNat + x.val + 1) % 65536)
        ∧ (s.cfg.loadStoreIncrementsI = false → t.i = s.i)
        ∧ RegsKept [] s t ∧ OnlyChanges [.mem, .i] s t)

/-- LD VX, [I] loads V0..VX from I on and moves I as LOADSTORE_INCREMENTS_I says. Rule R408. -/
def Obligations.LoadRegistersReadsV0ToVX : Prop :=
  ∀ (s : State) (x : Reg),
    Reads 0xF x.val 6 5 (.ldRegs x)
    ∧ Accesses (.ldRegs x) s s.i.toNat (x.val + 1) (fun t =>
        (∀ k : Reg, k.val ≤ x.val → t.reg k = s.readByte (s.i.toNat + k.val))
        ∧ (∀ k : Reg, x.val < k.val → t.reg k = s.reg k)
        ∧ (s.cfg.loadStoreIncrementsI = true → t.i.toNat = (s.i.toNat + x.val + 1) % 65536)
        ∧ (s.cfg.loadStoreIncrementsI = false → t.i = s.i)
        ∧ OnlyChanges [.i] s t)

/-- LD [I], VX-VY stores the range from I on, VX first, and keeps I. Rule R409. -/
def Obligations.StoreRangeWritesInTheNamedOrder : Prop :=
  ∀ (s : State) (x y : Reg),
    let n := max x.val y.val - min x.val y.val + 1
    let isRegister := fun (k : Nat) (r : Reg) => (x ≤ y → r.val = x.val + k) ∧ (y < x → r.val + k = x.val)
    Reads 0x5 x.val y.val 2 (.stRange x y)
    ∧ Accesses (.stRange x y) s s.i.toNat n (fun t =>
        (∀ (k : Nat) (r : Reg), k < n → isRegister k r → t.readByte (s.i.toNat + k) = s.reg r)
        ∧ (∀ a, a < s.i.toNat ∨ s.i.toNat + n ≤ a → t.readByte a = s.readByte a)
        ∧ RegsKept [] s t ∧ OnlyChanges [.mem] s t)

/-- LD VX-VY, [I] loads the range from I on, VX first, and keeps I. Rule R410. -/
def Obligations.LoadRangeReadsInTheNamedOrder : Prop :=
  ∀ (s : State) (x y : Reg),
    let n := max x.val y.val - min x.val y.val + 1
    let isRegister := fun (k : Nat) (r : Reg) => (x ≤ y → r.val = x.val + k) ∧ (y < x → r.val + k = x.val)
    Reads 0x5 x.val y.val 3 (.ldRange x y)
    ∧ Accesses (.ldRange x y) s s.i.toNat n (fun t =>
        (∀ (k : Nat) (r : Reg), k < n → isRegister k r → t.reg r = s.readByte (s.i.toNat + k))
        ∧ (∀ r : Reg, r.val < min x.val y.val ∨ max x.val y.val < r.val → t.reg r = s.reg r)
        ∧ OnlyChanges [] s t)

/-- CLS clears every active plane, keeps the others and marks the display updated. Rule R503. -/
def Obligations.ClearZeroesTheActivePlanes : Prop :=
  Reads 0x0 0x0 0xE 0x0 .cls
  ∧ ∀ s : State,
    let active := fun p => p < s.cfg.numPlanes ∧ s.activePlanes.getLsbD p = true
    let meets := fun (f : Nat → Nat → Nat → Bool) (t : State) =>
      (∀ p x y, x < width s.mode → y < height s.mode → active p → t.planePixel p x y = f p x y)
      ∧ (∀ p, ¬ active p → t.planes.getD p [] = s.planes.getD p []) ∧ t.updated = true
      ∧ t.updates = s.updates + 1 ∧ RegsKept [] s t ∧ OnlyChanges [.planes, .updated, .updates] s t
    Advances .cls s 2 (meets fun _ _ _ => false)

/-- SCD N and SCU N move the active planes N rows with zero fill. Rule R512, R513. -/
def Obligations.VerticalScrollsMoveRows : Prop :=
  ∀ (s : State) (n : Nat), n ≤ 15 →
    let active := fun p => p < s.cfg.numPlanes ∧ s.activePlanes.getLsbD p = true
    let meets := fun (f : Nat → Nat → Nat → Bool) (t : State) =>
      (∀ p x y, x < width s.mode → y < height s.mode → active p → t.planePixel p x y = f p x y)
      ∧ (∀ p, ¬ active p → t.planes.getD p [] = s.planes.getD p []) ∧ t.updated = true
      ∧ t.updates = s.updates + 1 ∧ RegsKept [] s t ∧ OnlyChanges [.planes, .updated, .updates] s t
    Reads 0x0 0x0 0xC n (.scd n)
    ∧ Advances (.scd n) s 2 (meets fun p x y => if n ≤ y then s.planePixel p x (y - n) else false)
    ∧ Reads 0x0 0x0 0xD n (.scu n)
    ∧ Advances (.scu n) s 2 (meets fun p x y => if y + n < height s.mode then s.planePixel p x (y + n) else false)

/-- SCR and SCL move the active planes 4 columns with zero fill. Rule R514, R515. -/
def Obligations.HorizontalScrollsMoveFourColumns : Prop :=
  ∀ s : State,
    let active := fun p => p < s.cfg.numPlanes ∧ s.activePlanes.getLsbD p = true
    let meets := fun (f : Nat → Nat → Nat → Bool) (t : State) =>
      (∀ p x y, x < width s.mode → y < height s.mode → active p → t.planePixel p x y = f p x y)
      ∧ (∀ p, ¬ active p → t.planes.getD p [] = s.planes.getD p []) ∧ t.updated = true
      ∧ t.updates = s.updates + 1 ∧ RegsKept [] s t ∧ OnlyChanges [.planes, .updated, .updates] s t
    Reads 0x0 0x0 0xF 0xB .scr
    ∧ Advances .scr s 2 (meets fun p x y => if 4 ≤ x then s.planePixel p (x - 4) y else false)
    ∧ Reads 0x0 0x0 0xF 0xC .scl
    ∧ Advances .scl s 2 (meets fun p x y => if x + 4 < width s.mode then s.planePixel p (x + 4) y else false)

/-- LOW and HIGH set the mode, clear every plane and keep the plane mask. Rule R516, R517, R518. -/
def Obligations.ModeSwitchClearsEveryPlane : Prop :=
  ∀ s : State,
    let meets := fun (m : Mode) (t : State) =>
      t.mode = m ∧ t.planes.length = s.cfg.numPlanes ∧ (∀ b ∈ t.planes, bitmapFits m b = true)
      ∧ (∀ p x y, t.planePixel p x y = false) ∧ t.activePlanes = s.activePlanes ∧ t.updated = true
      ∧ t.updates = s.updates + 1 ∧ RegsKept [] s t ∧ OnlyChanges [.mode, .planes, .updated, .updates] s t
    width .lores = 64 ∧ height .lores = 32 ∧ width .hires = 128 ∧ height .hires = 64
    ∧ Reads 0x0 0x0 0xF 0xE .low ∧ Advances .low s 2 (meets .lores)
    ∧ Reads 0x0 0x0 0xF 0xF .high ∧ Advances .high s 2 (meets .hires)

/-- PLANE X sets active_planes to the low two bits of X. Rule R530. -/
def Obligations.PlaneSelectsTheActivePlanes : Prop :=
  ∀ (s : State) (mask : Nat), mask ≤ 15 →
    Reads 0xF mask 0 1 (.plane mask)
    ∧ Advances (.plane mask) s 2 (fun t =>
        t.activePlanes.toNat = mask &&& 3 ∧ RegsKept [] s t ∧ OnlyChanges [.activePlanes] s t)

/-- DRW VX, VY, N XORs a wrapped sprite onto each active plane and sets VF on a collision. Rule R504, R505,
R506, R507, R508, R510. -/
def Obligations.DrawXorsTheSpriteAndSetsVfOnCollision : Prop :=
  ∀ (s : State) (vx vy : Reg) (n : Nat), n ≤ 15 → s.planes.length = s.cfg.numPlanes →
    let W := width s.mode
    let H := height s.mode
    let B := if n = 0 then 32 else n
    let rows := if n = 0 then 16 else n
    let cols := if n = 0 then 16 else 8
    let L := B * s.act.length
    let column := fun x => (x + W - (s.reg vx).toNat % W) % W
    let row := fun y => (y + H - (s.reg vy).toNat % H) % H
    let place := fun r c => if n = 0 then 2 * r + c / 8 else r
    let bit := fun j x y => row y < rows ∧ column x < cols
      ∧ (s.readByte (s.i.toNat + j * B + place (row y) (column x))).getLsbD (7 - column x % 8) = true
    let after := fun t : State =>
      (∀ j p x y, s.act[j]? = some p → x < W → y < H →
        (t.planePixel p x y = true ↔ ¬ (s.planePixel p x y = true ↔ bit j x y)))
      ∧ (∀ p, p ∉ s.act → t.planes.getD p [] = s.planes.getD p [])
      ∧ ((∃ j p x y, s.act[j]? = some p ∧ x < W ∧ y < H ∧ s.planePixel p x y = true ∧ bit j x y) → t.reg 15 = 1)
      ∧ ((¬ ∃ j p x y, s.act[j]? = some p ∧ x < W ∧ y < H ∧ s.planePixel p x y = true ∧ bit j x y) → t.reg 15 = 0)
      ∧ t.updated = true ∧ t.updates = s.updates + 1 ∧ RegsKept [15] s t
      ∧ OnlyChanges [.planes, .updated, .updates] s t
    Reads 0xD vx.val vy.val n (.drw vx vy n)
    ∧ (L = 0 ∨ s.i.toNat + L ≤ s.cfg.memSize → Advances (.drw vx vy n) s 2 after)
    ∧ (0 < L → s.cfg.memSize < s.i.toNat + L → Faults (.drw vx vy n) s (.memFault (max s.i.toNat s.cfg.memSize)))

/-- The active planes are the existing planes whose mask bit is set, in ascending order. Rests on
10_state.md section 8 (rule R48). -/
def Obligations.ActivePlanesAreTheMaskInOrder : Prop :=
  ∀ s : State,
    (∀ p, p ∈ s.act ↔ p < s.cfg.numPlanes ∧ s.activePlanes.getLsbD p = true) ∧ s.act.Pairwise (· < ·)

/-- The model's row-wise drawing equals the pixel loop of rule R509. Rests on 43_display.md section 3
(rules R504, R508, R509). -/
def Obligations.DrawingByRowsIsTheLoopOfTheSpec : Prop :=
  ∀ (m : Mode) (b : Bitmap) (bytes : List Byte) (wide : Bool) (x0 y0 : Nat), bitmapFits m b = true →
    x0 < width m → y0 < height m → bytes.length ≤ 32 →
    writeSpriteLoop m bytes wide x0 y0 b
      = (drawn m bytes wide x0 y0 b, collides m bytes wide x0 y0 b)

/-- Drawing the same sprite twice restores every plane, and the second draw collides where the first set a
bit. Rests on 43_display.md section 7 (rule R542). -/
def Obligations.DrawingTwiceRestoresTheDisplay : Prop :=
  ∀ (s : State) (vx vy : Reg) (n : Nat), n ≤ 15 → vx ≠ 15 → vy ≠ 15 → s.planes.length = s.cfg.numPlanes →
    (∀ b ∈ s.planes, bitmapFits s.mode b = true) → s.pc.toNat + 4 ≤ 0xFFFF →
    s.i.toNat + (if n = 0 then 32 else n) * s.act.length ≤ s.cfg.memSize →
    ∃ t u, exec (.drw vx vy n) s = .next t ∧ exec (.drw vx vy n) t = .next u
      ∧ t.result = some .executed ∧ u.result = some .executed ∧ u.planes = s.planes
      ∧ (u.reg 15 = 1 ↔ ∃ p x y, p ∈ s.act ∧ x < width s.mode ∧ y < height s.mode
          ∧ s.planePixel p x y = false ∧ t.planePixel p x y = true)

/-- A scroll and its inverse restore every pixel that was not shifted past an edge and leave 0 in the rest.
Rests on 43_display.md section 7 (rule R542); 90_conflicts.md C3. -/
def Obligations.InverseScrollRestoresAllButTheEdge : Prop :=
  ∀ (s : State) (n : Nat), n ≤ 15 → s.pc.toNat + 4 ≤ 0xFFFF →
    let active := fun p => p < s.cfg.numPlanes ∧ s.activePlanes.getLsbD p = true
    let restores := fun (i j : Instr) (stays : Nat → Nat → Prop) =>
      ∃ t u, exec i s = .next t ∧ exec j t = .next u ∧ t.result = some .executed ∧ u.result = some .executed
        ∧ (∀ p x y, active p → x < width s.mode → y < height s.mode →
            (stays x y → u.planePixel p x y = s.planePixel p x y)
            ∧ (¬ stays x y → u.planePixel p x y = false))
        ∧ (∀ p, ¬ active p → u.planes.getD p [] = s.planes.getD p [])
    restores (.scd n) (.scu n) (fun _ y => y + n < height s.mode)
    ∧ restores .scr .scl (fun x _ => x + 4 < width s.mode) ∧ restores .scl .scr (fun x _ => 4 ≤ x)

/-- to_frame lists the palette colours of the 2-bit plane indices row by row. Rule R540. -/
def Obligations.FrameMapsThePlaneBitsThroughThePalette : Prop :=
  ∀ s : State,
    s.toFrame.width = width s.mode ∧ s.toFrame.height = height s.mode
    ∧ s.toFrame.pixels.length = width s.mode * height s.mode
    ∧ (∀ (x y : Nat) (k : Fin 4), x < width s.mode → y < height s.mode →
        k.val = (if s.planePixel 0 x y then 1 else 0) + (if s.planePixel 1 x y then 2 else 0) →
        s.toFrame.pixels[y * width s.mode + x]? = some s.palette[k])
    ∧ (s.planes.length ≤ 1 → ∀ x y, s.planePixel 1 x y = false)

/-- A timer reads its last value less the elapsed steps, never below 0, and never rises. Rule R601, R602,
R603, R604. -/
def Obligations.TimersDecayByWallClockAndClampAtZero : Prop :=
  ∀ (tr : TimerRegister) (b : Byte) (t₁ t₂ : Seconds), 0 < tr.tickFrequencyHz → 0 < tr.speedMultiplier →
    tr.lastSetInstant ≤ t₁ → t₁ ≤ t₂ →
    ((tr.get t₁).toNat : Int) = max 0 ((tr.lastSetValue.toNat : Int)
        - ((t₁ - tr.lastSetInstant) * (tr.tickFrequencyHz : Rat) * tr.speedMultiplier).floor)
    ∧ (tr.get t₂).toNat ≤ (tr.get t₁).toNat
    ∧ (tr.set b t₁).get t₁ = b
    ∧ tr.set b t₁ = { tr with lastSetInstant := t₁, lastSetValue := b }
    ∧ (tr.timeRemaining t₁ = none ↔ tr.get t₁ = 0)
    ∧ (tr.get t₁ ≠ 0 → tr.timeRemaining t₁
        = some ((tr.lastSetValue.toNat : Rat) / ((tr.tickFrequencyHz : Rat) * tr.speedMultiplier)
            - (t₁ - tr.lastSetInstant)))

/-- LD VX, DT reads the delay timer at the tick's clock and LD DT, VX sets it. Rule R610, R611. -/
def Obligations.DelayTimerIsReadAndSetAtTheTicksTime : Prop :=
  ∀ (s : State) (x : Reg),
    Reads 0xF x.val 0 7 (.ldVxDt x)
    ∧ Advances (.ldVxDt x) s 2 (fun t => t.reg x = s.dt.get s.now ∧ RegsKept [x] s t ∧ OnlyChanges [] s t)
    ∧ Reads 0xF x.val 1 5 (.ldDtVx x)
    ∧ Advances (.ldDtVx x) s 2 (fun t => t.dt = s.dt.set (s.reg x) s.now ∧ RegsKept [] s t ∧ OnlyChanges [.dt] s t)

/-- LD ST, VX sets the sound timer and emits one arm event when VX is not 0. Rule R612, R614. -/
def Obligations.SoundTimerArmsTheAudioPort : Prop :=
  ∀ (s : State) (x : Reg), s.st.tickFrequencyHz = 60 → s.st.speedMultiplier = s.cfg.speedMult →
    0 < s.cfg.speedMult →
    Reads 0xF x.val 1 8 (.ldStVx x)
    ∧ Advances (.ldStVx x) s 2 (fun t =>
        t.st = s.st.set (s.reg x) s.now
        ∧ (s.reg x = 0 → t.events = s.events)
        ∧ (s.reg x ≠ 0 → t.events = s.events ++ [⟨s.pattern, ((s.reg x).toNat : Rat) / (60 * s.cfg.speedMult)⟩]
            ∧ t.st.timeRemaining s.now = some (((s.reg x).toNat : Rat) / (60 * s.cfg.speedMult)))
        ∧ RegsKept [] s t ∧ OnlyChanges [.st, .events] s t)

/-- AUDIO loads the sixteen bytes at I into the pattern buffer. Rule R615. -/
def Obligations.AudioLoadsTheWholePattern : Prop :=
  Reads 0xF 0x0 0x0 0x2 .audio
  ∧ ∀ s : State, Accesses .audio s s.i.toNat 16 (fun t =>
      (∀ k : Fin 16, t.pattern[k] = s.readByte (s.i.toNat + k.val))
      ∧ RegsKept [] s t ∧ OnlyChanges [.pattern] s t)

/-- SKP and SKNP skip on the state of the key VX names, or take KeyIndexFault. Rule R620, R621, R622. -/
def Obligations.KeySkipsTestOneKey : Prop :=
  ∀ (s : State) (x : Reg),
    Reads 0xE x.val 9 0xE (.skp x) ∧ Reads 0xE x.val 0xA 1 (.sknp x)
    ∧ (∀ k : Fin 16, (s.reg x).toNat = k.val →
        SkipsIf (s.keys[k] = true) (.skp x) s ∧ SkipsIf (s.keys[k] = false) (.sknp x) s)
    ∧ (15 < (s.reg x).toNat →
        Faults (.skp x) s (.keyIndexFault (s.reg x)) ∧ Faults (.sknp x) s (.keyIndexFault (s.reg x)))

/-- LD VX, K blocks without a fresh press, else takes the lowest fresh key. Rule R623, R625. -/
def Obligations.KeyWaitBlocksUntilAFreshPress : Prop :=
  ∀ (s : State) (x : Reg),
    let fresh := fun k : Fin 16 => s.keys[k] = true ∧ s.prevKeys[k] = false
    Reads 0xF x.val 0 0xA (.ldVxK x)
    ∧ ((∀ k, ¬ fresh k) → ∃ t, exec (.ldVxK x) s = .next t ∧ t.result = some .blocked ∧ t.pc = s.pc
        ∧ t.prevKeys = s.keys ∧ RegsKept [] s t ∧ OnlyChanges [.prevKeys] s t)
    ∧ (∀ k, fresh k → (∀ j, j < k → ¬ fresh j) →
        Advances (.ldVxK x) s 2 (fun t =>
          (t.reg x).toNat = k.val ∧ t.prevKeys = s.keys ∧ RegsKept [x] s t ∧ OnlyChanges [.prevKeys] s t))

/-- After reset and load every piece of state has the value of rule R57. Rule R57, R800. -/
def Obligations.ResetAndLoadLeaveTheStatedValues : Prop :=
  defaultConfig.palette = #v[0, 1, 2, 3]
  ∧ ∀ (c : Config) (t0 t : Seconds) (prog : List Byte) (s : State), c.wf = true →
    (State.resetWith c t0).load prog = some s → t0 ≤ t →
    (∀ r, s.reg r = 0) ∧ s.i = 0 ∧ s.pc = 0x200 ∧ s.sp = 0 ∧ (∀ k : Fin 16, s.stack[k] = 0)
    ∧ (∀ k, k < 80 → s.readByte (c.fontSmallBase + k) = c.fontSmall.getD k 0)
    ∧ (∀ k, k < 160 → s.readByte (c.fontBigBase + k) = c.fontBig.getD k 0)
    ∧ (∀ k, k < prog.length → s.readByte (0x200 + k) = prog.getD k 0)
    ∧ (∀ a, (a < c.fontSmallBase ∨ c.fontSmallBase + 80 ≤ a) → (a < c.fontBigBase ∨ c.fontBigBase + 160 ≤ a) →
        (a < 0x200 ∨ 0x200 + prog.length ≤ a) → s.readByte a = 0)
    ∧ s.mode = .lores ∧ s.planes.length = c.numPlanes
    ∧ (∀ b ∈ s.planes, bitmapFits .lores b = true) ∧ (∀ p x y, s.planePixel p x y = false)
    ∧ s.activePlanes = 0b01 ∧ s.palette = c.palette ∧ s.updated = false ∧ s.updates = 0
    ∧ s.dt = ⟨t0, t0, 0, 60, c.speedMult⟩ ∧ s.st = ⟨t0, t0, 0, 60, c.speedMult⟩
    ∧ s.dt.get t = 0 ∧ s.st.get t = 0
    ∧ (∀ k : Fin 16, s.keys[k] = false) ∧ (∀ k : Fin 16, s.prevKeys[k] = false)
    ∧ (c.initPattern = .h55 → ∀ k : Fin 16, s.pattern[k] = 0x55)
    ∧ (c.initPattern = .hAA → ∀ k : Fin 16, s.pattern[k] = 0xAA) ∧ s.halted = none

/-- The first tick of an empty program takes DecodeError(0x0000, 0x200). Rests on 70_reset_and_hazards.md
section 3 (rule R806). That the faulting tick answers a next state is the form of assumption 4. -/
def Obligations.EmptyProgramTakesDecodeError : Prop :=
  ∀ (c : Config) (t0 : Seconds), c.wf = true →
    ∃ t, step (State.resetWith c t0) = .next t ∧ t.halted = some ⟨.decodeError, 0x0000, 0x200⟩
      ∧ step t = .fault .decodeError

/-- A program is loaded verbatim from 0x200 and rejected exactly when it does not fit. Rule R802, R804. -/
def Obligations.ProgramLoadAcceptsWhatFits : Prop :=
  ∀ (s : State) (prog : List Byte), s.cfg.wf = true →
    ((∃ t, s.load prog = some t) ↔ 0x200 + prog.length ≤ s.cfg.memSize)
    ∧ (s.cfg.memSize = 65536 ∨ s.cfg.memSize = 4096)
    ∧ (∀ t, s.load prog = some t →
        (∀ k, k < prog.length → t.readByte (0x200 + k) = prog.getD k 0)
        ∧ (∀ a, a < 0x200 ∨ 0x200 + prog.length ≤ a → t.readByte a = s.readByte a)
        ∧ t.pc = s.pc ∧ RegsKept [] s t ∧ OnlyChanges [.mem] s t)
    ∧ (∀ (c : Config) (t0 : Seconds), (State.resetWith c t0).load prog = none → Loop.start c t0 prog = none)

/-- A push fills an empty mailbox, is dropped at a full one, and a tick drains the slot. Rule R722. -/
def Obligations.MailboxKeepsTheOlderSnapshot : Prop :=
  ∀ (s : State) (k : Keys),
    (s.mailbox = none → (s.pushKeys k).mailbox = some k)
    ∧ (s.mailbox ≠ none → s.pushKeys k = s)
    ∧ (s.mailbox = some k → s.beginTick.keys = k)
    ∧ (s.mailbox = none → s.nextInput.push = some k → s.beginTick.keys = k)
    ∧ (s.mailbox = none → s.nextInput.push = none → s.beginTick.keys = s.keys)
    ∧ s.beginTick.mailbox = none

/-- The loop offers frames as FRAME_POLICY and DELIVERY say and clears only updated; the handshake's form
is the model's choice (log 15). Rests on 60_exceptions.md section 6 (rules R721, R723, R724, R725, R726,
R728). That signal and payload go out in two turns and that a waiting turn changes nothing is the model's
choice: assumption 15. -/
def Obligations.FramePoliciesNeverChangeTheCore : Prop :=
  ∀ (l : Loop) (t : State), l.ended = none → l.keysOpen = true → l.framesOpen = true → l.audioWorks = true →
    (l.core.cfg.delivery = .noSkip → l.ready = true ∨ l.frame ≠ none → l.iterate = l)
    ∧ (l.core.cfg.delivery = .skipFrames ∨ (l.ready = false ∧ l.frame = none) →
      (∀ f, l.pending = some f → l.iterate = { l with pending := none, frame := some f })
      ∧ (l.pending = none → step l.core = .next t → t.halted = none →
        let offers := t.cfg.framePolicy = .everyTick ∨ t.updated = true
        (offers → l.iterate.core = { t with updated := false }
          ∧ (l.frame = none →
              l.iterate.ready = true ∧ l.iterate.pending = some t.toFrame ∧ l.iterate.frame = none)
          ∧ (l.frame ≠ none →
              l.iterate.ready = l.ready ∧ l.iterate.pending = none ∧ l.iterate.frame = l.frame))
        ∧ (¬ offers → l.iterate.core = t
          ∧ l.iterate.ready = l.ready ∧ l.iterate.pending = none ∧ l.iterate.frame = l.frame)
        ∧ l.iterate.heard = l.heard ++ t.events ∧ l.iterate.ended = none))

/-- A fault, a closed channel or an audio failure ends the loop and keeps the core; where and in which
order is the model's choice (log 15, 20). Rests on 60_exceptions.md section 6 (rules R721, R727, R728);
60_exceptions.md section 1 (rule R707). That the next turn ends the loop with no tick run, both ends being
noticed at its head and closure first, and that no frame is offered after a faulting tick, is the model's
choice: assumptions 15 and 20. -/
def Obligations.ClosedChannelEndsTheLoopAndKeepsTheCore : Prop :=
  ∀ l : Loop,
    (l.ended ≠ none → l.iterate = l)
    ∧ (l.ended = none → (l.keysOpen = false ∨ l.framesOpen = false) →
      l.iterate = { l with ended := some .channelClosed })
    ∧ (l.ended = none → l.keysOpen = true → l.framesOpen = true → l.audioWorks = false →
      l.iterate = { l with ended := some .audioFailure })
    ∧ (l.ended = none → l.keysOpen = true → l.framesOpen = true → l.audioWorks = true → l.pending = none →
      (l.core.cfg.delivery = .skipFrames ∨ (l.ready = false ∧ l.frame = none)) →
      (∀ (t : State) (r : FaultRecord), step l.core = .next t → t.halted = some r →
          l.iterate = { l with core := t, ended := some (.fault r.kind) })
      ∧ (∀ k, step l.core = .fault k → l.iterate = { l with ended := some (.fault k) }))
    ∧ l.act .closeKeys = { l with keysOpen := false } ∧ l.act .closeFrames = { l with framesOpen := false }
    ∧ l.act .failAudio = { l with audioWorks := false }

/-- A payload is sent only after its signal and is the copy taken at the offer; the form of the pair is the
model's choice (log 15). Rests on 60_exceptions.md section 6 (rules R723, R724). That a turn sends the
payload apart from its signal, and that consuming a payload answers a signal not taken, is the model's
choice: assumption 15. -/
def Obligations.FramePayloadFollowsItsSignal : Prop :=
  ∀ (l : Loop) (a : HostAction) (f : Frame),
    (l.pending = none → (l.act a).pending = some f →
      a = .iterate ∧ (l.act a).ready = true ∧ f = (l.act a).core.toFrame)
    ∧ (l.pending = some f → (l.act a).pending = some f
        ∨ (a = .iterate ∧ (l.act a).pending = none ∧ (l.act a).frame = some f))
    ∧ (l.frame = none → (l.act a).frame = some f → a = .iterate ∧ l.pending = some f
        ∧ (l.core.cfg.delivery = .noSkip → l.ready = false))
    ∧ (l.frame = some f → l.pending = none → (l.act a).frame = some f
        ∨ (a = .consumeFrame ∧ (l.act a).frame = none))
    ∧ ((l.pending ≠ none → l.frame = none) → (l.act a).pending ≠ none → (l.act a).frame = none)
    ∧ l.act .takeReady = { l with ready := false }
    ∧ (l.frame ≠ none → l.act .consumeFrame = { l with ready := false, frame := none })
    ∧ (l.frame = none → l.act .consumeFrame = l)

/-- The host's palette setting writes the four entries, or the first two, and nothing else, and frames show
the new colours. Rests on 10_state.md section 8 (rule R49); 60_exceptions.md section 6 (rule R720);
92_eei_decisions.md D32; 43_display.md section 7 (rule R540). -/
def Obligations.HostSetsThePaletteEntries : Prop :=
  ∀ (s : State) (l : Loop) (p : Vector Colour 4) (c0 c1 : Colour),
    let kept := fun t : State => t.pc = s.pc ∧ t.result = s.result ∧ RegsKept [] s t ∧ OnlyChanges [.palette] s t
    let two := s.setPalette2 c0 c1
    (s.setPalette p).palette = p ∧ kept (s.setPalette p)
    ∧ two.palette[0] = c0 ∧ two.palette[1] = c1 ∧ two.palette[2] = s.palette[2] ∧ two.palette[3] = s.palette[3]
    ∧ kept two
    ∧ l.act (.setPalette p) = { l with core := l.core.setPalette p }
    ∧ l.act (.setPalette2 c0 c1) = { l with core := l.core.setPalette2 c0 c1 }
    ∧ (∀ (x y : Nat) (k : Fin 4), x < width s.mode → y < height s.mode →
        k.val = (if s.planePixel 0 x y then 1 else 0) + (if s.planePixel 1 x y then 2 else 0) →
        (s.setPalette p).toFrame.pixels[y * width s.mode + x]? = some p[k])
end

