-- ==== Sys2Proof/Laws/Bitmap.lean ====
section
/-! SUPPORT. What a pixel reads after each operation of the compositor, and that the operations keep the
dimensions of the mode. -/

namespace Sys2Proof.Machine

theorem width_pos (m : Mode) : 0 < width m := by cases m <;> decide

theorem width_le (m : Mode) : width m ≤ 128 := by cases m <;> decide

theorem height_pos (m : Mode) : 0 < height m := by cases m <;> decide

@[simp] theorem length_ofRows (m : Mode) (f : Nat → Row) : (ofRows m f).length = height m := by simp [ofRows]

/-- Row y of a bitmap built by rows. -/
theorem getD_ofRows (m : Mode) (f : Nat → Row) (y : Nat) :
    (ofRows m f).getD y 0 = if y < height m then f y else 0 := by
  unfold ofRows
  split
  · next h => simp [h]
  · next h => simp [h]

/-- Pixel (x, y) of a bitmap built by rows. -/
theorem pixel_ofRows (m : Mode) (f : Nat → Row) {x y : Nat} (hy : y < height m) :
    pixel (ofRows m f) x y = (f y).getLsbD x := by
  rw [pixel, getD_ofRows, if_pos hy]

/-- Column x of a row built by pixels. -/
theorem getLsbD_ofPixels (m : Mode) (f : Nat → Bool) (x : Nat) :
    (ofPixels m f).getLsbD x = (decide (x < width m) && f x) := by
  have := width_le m
  rw [ofPixels, BitVec.getLsbD_ofFnLE]
  split
  · rfl
  · next h =>
    have : ¬ x < width m := by omega
    simp [this]

theorem getLsbD_fullRow (m : Mode) (x : Nat) : (fullRow m).getLsbD x = decide (x < width m) := by
  have := width_le m
  simp only [fullRow, BitVec.getLsbD_ofNat, Nat.testBit_two_pow_sub_one]
  by_cases h : x < width m
  · have : x < 128 := by omega
    simp [h, this]
  · simp [h]

@[simp] theorem pixel_nil (x y : Nat) : pixel [] x y = false := by simp [pixel]

@[simp] theorem pixel_blank (m : Mode) (x y : Nat) : pixel (blank m) x y = false := by
  rw [pixel, blank, getD_ofRows]; split <;> simp

section
variable (m : Mode) (b : Bitmap) {x y : Nat}

theorem pixel_scrolledDown (n : Nat) (hy : y < height m) :
    pixel (scrolledDown m n b) x y = if n ≤ y then pixel b x (y - n) else false := by
  rw [scrolledDown, pixel_ofRows m _ hy]; split <;> simp [pixel]

theorem pixel_scrolledUp (n : Nat) (hy : y < height m) :
    pixel (scrolledUp m n b) x y = if y + n < height m then pixel b x (y + n) else false := by
  rw [scrolledUp, pixel_ofRows m _ hy]; split <;> simp [pixel]

theorem pixel_scrolledRight (hx : x < width m) (hy : y < height m) :
    pixel (scrolledRight m b) x y = if 4 ≤ x then pixel b (x - 4) y else false := by
  have := width_le m
  have hx' : x < 128 := by omega
  rw [scrolledRight, pixel_ofRows m _ hy, BitVec.getLsbD_and, BitVec.getLsbD_shiftLeft, getLsbD_fullRow]
  by_cases h : 4 ≤ x
  · have h' : ¬ x < 4 := by omega
    simp only [hx, hx', h, h', decide_true, decide_false, Bool.not_false, Bool.true_and, Bool.and_true, if_true]
    rfl
  · have h' : x < 4 := by omega
    simp [h, h']

theorem pixel_scrolledLeft (hy : y < height m) :
    pixel (scrolledLeft m b) x y = if x + 4 < width m then pixel b (x + 4) y else false := by
  rw [scrolledLeft, pixel_ofRows m _ hy, BitVec.getLsbD_ushiftRight, BitVec.getLsbD_and, getLsbD_fullRow,
    Nat.add_comm 4 x]
  by_cases h : x + 4 < width m <;> simp [h, pixel]

/-- The sprite's pixel over display pixel (x, y). -/
theorem getLsbD_spriteRow (hx : x < width m) (bytes : List Byte) (wide : Bool) (x0 y0 : Nat) :
    (spriteRow m bytes wide x0 y0 y).getLsbD x =
      (decide ((y + height m - y0) % height m < spriteRows wide bytes)
        && decide ((x + width m - x0) % width m < spriteCols wide)
        && spriteBit bytes wide ((y + height m - y0) % height m) ((x + width m - x0) % width m)) := by
  unfold spriteRow
  split
  · next h => simp [getLsbD_ofPixels, hx, h]
  · next h => simp [h]

/-- Drawing XORs the sprite's pixel into the plane's (R509). -/
theorem pixel_drawn (hy : y < height m) (bytes : List Byte) (wide : Bool) (x0 y0 : Nat) :
    pixel (drawn m bytes wide x0 y0 b) x y
      = (pixel b x y ^^ (spriteRow m bytes wide x0 y0 y).getLsbD x) := by
  rw [drawn, pixel_ofRows m _ hy, BitVec.getLsbD_xor, pixel]

end

/-! ### Dimensions -/

theorem bitmapFits_ofRows (m : Mode) (f : Nat → Row)
    (h : ∀ y, y < height m → f y &&& fullRow m = f y) : bitmapFits m (ofRows m f) = true := by
  simp only [bitmapFits, length_ofRows, Bool.and_eq_true, beq_self_eq_true, true_and, List.all_eq_true,
    beq_iff_eq]
  intro r hr
  obtain ⟨y, hy, rfl⟩ := List.mem_map.1 hr
  exact h y (List.mem_range.1 hy)

theorem row_fits {m : Mode} {b : Bitmap} (h : bitmapFits m b = true) (y : Nat) :
    b.getD y 0 &&& fullRow m = b.getD y 0 := by
  simp only [bitmapFits, Bool.and_eq_true, beq_iff_eq, List.all_eq_true] at h
  rcases Nat.lt_or_ge y b.length with hy | hy
  · rw [List.getD_eq_getElem b 0 hy]; exact h.2 _ (List.getElem_mem hy)
  · rw [List.getD_eq_default _ _ hy]; exact BitVec.zero_and

theorem spriteRow_fits (m : Mode) (bytes : List Byte) (wide : Bool) (x0 y0 y : Nat) :
    spriteRow m bytes wide x0 y0 y &&& fullRow m = spriteRow m bytes wide x0 y0 y := by
  unfold spriteRow
  split
  · apply BitVec.eq_of_getLsbD_eq
    intro x hx
    rw [BitVec.getLsbD_and, getLsbD_ofPixels, getLsbD_fullRow]
    by_cases h : x < width m <;> simp [h]
  · exact BitVec.zero_and

theorem blank_fits (m : Mode) : bitmapFits m (blank m) = true := bitmapFits_ofRows m _ fun _ _ => BitVec.zero_and

theorem scrolledDown_fits {m : Mode} {b : Bitmap} (n : Nat) (h : bitmapFits m b = true) :
    bitmapFits m (scrolledDown m n b) = true := by
  refine bitmapFits_ofRows m _ fun y _ => ?_
  split
  · exact row_fits h _
  · exact BitVec.zero_and

theorem scrolledUp_fits {m : Mode} {b : Bitmap} (n : Nat) (h : bitmapFits m b = true) :
    bitmapFits m (scrolledUp m n b) = true := by
  refine bitmapFits_ofRows m _ fun y _ => ?_
  split
  · exact row_fits h _
  · exact BitVec.zero_and

theorem scrolledRight_fits (m : Mode) (b : Bitmap) : bitmapFits m (scrolledRight m b) = true :=
  bitmapFits_ofRows m _ fun y _ => by rw [BitVec.and_assoc, BitVec.and_self]

theorem scrolledLeft_fits (m : Mode) (b : Bitmap) : bitmapFits m (scrolledLeft m b) = true := by
  refine bitmapFits_ofRows m _ fun y _ => ?_
  apply BitVec.eq_of_getLsbD_eq
  intro x hx
  simp only [BitVec.getLsbD_and, BitVec.getLsbD_ushiftRight, getLsbD_fullRow]
  by_cases h : 4 + x < width m
  · have : x < width m := by omega
    simp [h, this]
  · simp [h]

theorem drawn_fits {m : Mode} {b : Bitmap} (bytes : List Byte) (wide : Bool) (x0 y0 : Nat)
    (h : bitmapFits m b = true) : bitmapFits m (drawn m bytes wide x0 y0 b) = true := by
  refine bitmapFits_ofRows m _ fun y _ => ?_
  apply BitVec.eq_of_getLsbD_eq
  intro x hx
  have h1 := congrArg (fun r : Row => r.getLsbD x) (row_fits h y)
  have h2 := congrArg (fun r : Row => r.getLsbD x) (spriteRow_fits m bytes wide x0 y0 y)
  simp only [BitVec.getLsbD_and, BitVec.getLsbD_xor] at h1 h2 ⊢
  cases hf : (fullRow m).getLsbD x <;> simp_all

end Sys2Proof.Machine
end

