-- ==== Sys2Proof/Laws/Decode.lean ====
section
/-! SUPPORT. Words, nibbles and bytes: each field of a word built from nibbles is the nibble it was built
from, and a word's bytes give the word back. -/

namespace Sys2Proof

section
variable {g x y n : Nat}

theorem toNat_ofNibbles (hg : g < 16) (hx : x < 16) (hy : y < 16) (hn : n < 16) :
    (ofNibbles g x y n).toNat = g * 4096 + x * 256 + y * 16 + n := by
  simp only [ofNibbles, BitVec.toNat_ofNat]; omega

theorem nibble0_ofNibbles (hg : g < 16) (hx : x < 16) (hy : y < 16) (hn : n < 16) :
    nibble0 (ofNibbles g x y n) = g := by
  simp only [nibble0, toNat_ofNibbles hg hx hy hn]; omega

theorem nibble1_ofNibbles (hg : g < 16) (hx : x < 16) (hy : y < 16) (hn : n < 16) :
    nibble1 (ofNibbles g x y n) = x := by
  simp only [nibble1, toNat_ofNibbles hg hx hy hn]; omega

theorem nibble2_ofNibbles (hg : g < 16) (hx : x < 16) (hy : y < 16) (hn : n < 16) :
    nibble2 (ofNibbles g x y n) = y := by
  simp only [nibble2, toNat_ofNibbles hg hx hy hn]; omega

theorem nibble3_ofNibbles (hg : g < 16) (hx : x < 16) (hy : y < 16) (hn : n < 16) :
    nibble3 (ofNibbles g x y n) = n := by
  simp only [nibble3, toNat_ofNibbles hg hx hy hn]; omega

/-- Decoding a word built from nibbles dispatches on those nibbles. -/
theorem decodeWord_ofNibbles (hg : g < 16) (hx : x < 16) (hy : y < 16) (hn : n < 16) :
    decodeWord (ofNibbles g x y n) = decodeNibbles g x y n := by
  simp only [decodeWord, nibble0_ofNibbles hg hx hy hn, nibble1_ofNibbles hg hx hy hn,
    nibble2_ofNibbles hg hx hy hn, nibble3_ofNibbles hg hx hy hn]

/-- As bits, a word built from nibbles is the four nibbles side by side. -/
theorem ofNibbles_eq_append (hg : g < 16) (hx : x < 16) (hy : y < 16) (hn : n < 16) :
    ofNibbles g x y n =
      ((BitVec.ofNat 4 g ++ BitVec.ofNat 4 x) ++ (BitVec.ofNat 4 y ++ BitVec.ofNat 4 n) : BitVec 16) := by
  apply BitVec.eq_of_toNat_eq
  rw [toNat_ofNibbles hg hx hy hn]
  simp only [BitVec.toNat_append, BitVec.toNat_ofNat, Nat.shiftLeft_eq]
  have h1 : ∀ a b : Nat, b < 16 → a * 2 ^ 4 ||| b = a * 16 + b := fun a b hb => by
    rw [Nat.mul_comm, ← Nat.two_pow_add_eq_or_of_lt (i := 4) (by simpa using hb)]; omega
  have h2 : ∀ a b : Nat, b < 256 → a * 2 ^ (4 + 4) ||| b = a * 256 + b := fun a b hb => by
    rw [Nat.mul_comm, ← Nat.two_pow_add_eq_or_of_lt (i := 8) (by simpa using hb)]; omega
  rw [Nat.mod_eq_of_lt (by simpa using hg), Nat.mod_eq_of_lt (by simpa using hx),
    Nat.mod_eq_of_lt (by simpa using hy), Nat.mod_eq_of_lt (by simpa using hn), h1 _ _ hx, h1 _ _ hn, h2]
  · omega
  · omega

/-- Masking by nibbles acts nibble by nibble. -/
theorem ofNibbles_and {g' x' y' n' : Nat} (hg : g < 16) (hx : x < 16) (hy : y < 16) (hn : n < 16)
    (hg' : g' < 16) (hx' : x' < 16) (hy' : y' < 16) (hn' : n' < 16) :
    ofNibbles g x y n &&& ofNibbles g' x' y' n' = ofNibbles (g &&& g') (x &&& x') (y &&& y') (n &&& n') := by
  have lt : ∀ a b : Nat, a < 16 → a &&& b < 16 := fun a b h => Nat.lt_of_le_of_lt Nat.and_le_left h
  rw [ofNibbles_eq_append hg hx hy hn, ofNibbles_eq_append hg' hx' hy' hn',
    ofNibbles_eq_append (lt _ _ hg) (lt _ _ hx) (lt _ _ hy) (lt _ _ hn)]
  simp only [BitVec.ofNat_and]
  refine (BitVec.and_append (w := 8) (v := 8)).trans ?_
  rw [BitVec.and_append (w := 4) (v := 4), BitVec.and_append (w := 4) (v := 4)]

end

theorem nibble_and_15 {a : Nat} (h : a < 16) : a &&& 15 = a := by
  have := Nat.and_two_pow_sub_one_eq_mod a 4
  simp only [show (2 : Nat) ^ 4 - 1 = 15 from rfl] at this
  rw [this]; omega

/-- The four nibbles of a word give the word back. -/
theorem ofNibbles_nibbles (w : Word) : ofNibbles (nibble0 w) (nibble1 w) (nibble2 w) (nibble3 w) = w := by
  apply BitVec.eq_of_toNat_eq
  have := w.isLt
  simp only [ofNibbles, nibble0, nibble1, nibble2, nibble3, BitVec.toNat_ofNat]; omega

theorem nibbles_lt (w : Word) : nibble0 w < 16 ∧ nibble1 w < 16 ∧ nibble2 w < 16 ∧ nibble3 w < 16 := by
  have := w.isLt
  simp only [nibble0, nibble1, nibble2, nibble3]; omega

@[simp] theorem regOf_val (x : Reg) : regOf x.val = x := by
  apply Fin.ext; simp [regOf, Fin.ofNat, Nat.mod_eq_of_lt x.isLt]

theorem val_regOf {x : Nat} (h : x < 16) : (regOf x).val = x := by
  simp [regOf, Fin.ofNat, Nat.mod_eq_of_lt h]

theorem toNat_bigEndian (hi lo : Byte) : (bigEndian hi lo).toNat = hi.toNat * 256 + lo.toNat := by
  have := hi.isLt; have := lo.isLt
  simp only [bigEndian, BitVec.toNat_ofNat]; omega

/-- A word's bytes, big-endian, give the word back (R80). -/
@[simp] theorem bigEndian_bytes (w : Word) : bigEndian (highByte w) (lowByte w) = w := by
  apply BitVec.eq_of_toNat_eq
  have := w.isLt
  rw [toNat_bigEndian]
  simp only [highByte, lowByte, BitVec.toNat_ofNat]; omega

theorem highByte_bigEndian (hi lo : Byte) : highByte (bigEndian hi lo) = hi := by
  apply BitVec.eq_of_toNat_eq
  have := hi.isLt; have := lo.isLt
  simp only [highByte, BitVec.toNat_ofNat, toNat_bigEndian]; omega

theorem lowByte_bigEndian (hi lo : Byte) : lowByte (bigEndian hi lo) = lo := by
  apply BitVec.eq_of_toNat_eq
  have := hi.isLt; have := lo.isLt
  simp only [lowByte, BitVec.toNat_ofNat, toNat_bigEndian]; omega

end Sys2Proof
end

