-- ==== Sys2Proof/Laws/State.lean ====
section
/-! SUPPORT. What each named update of the state leaves alone, field by field. The plain updates of
Machine/Ops.lean carry @[simps], which generates the same lemmas for them (`State.setV_pc`,
`State.takeFault_mem`, ...); here are the updates that are composed of others. -/

namespace Sys2Proof.Machine

/-! ### `setVF` -/

@[simp] theorem State.setVF_i (s : State) (c : Bool) : (s.setVF c).i = s.i := rfl
@[simp] theorem State.setVF_pc (s : State) (c : Bool) : (s.setVF c).pc = s.pc := rfl
@[simp] theorem State.setVF_stack (s : State) (c : Bool) : (s.setVF c).stack = s.stack := rfl
@[simp] theorem State.setVF_sp (s : State) (c : Bool) : (s.setVF c).sp = s.sp := rfl
@[simp] theorem State.setVF_mem (s : State) (c : Bool) : (s.setVF c).mem = s.mem := rfl
@[simp] theorem State.setVF_mode (s : State) (c : Bool) : (s.setVF c).mode = s.mode := rfl
@[simp] theorem State.setVF_planes (s : State) (c : Bool) : (s.setVF c).planes = s.planes := rfl
@[simp] theorem State.setVF_activePlanes (s : State) (c : Bool) : (s.setVF c).activePlanes = s.activePlanes := rfl
@[simp] theorem State.setVF_palette (s : State) (c : Bool) : (s.setVF c).palette = s.palette := rfl
@[simp] theorem State.setVF_updated (s : State) (c : Bool) : (s.setVF c).updated = s.updated := rfl
@[simp] theorem State.setVF_updates (s : State) (c : Bool) : (s.setVF c).updates = s.updates := rfl
@[simp] theorem State.setVF_dt (s : State) (c : Bool) : (s.setVF c).dt = s.dt := rfl
@[simp] theorem State.setVF_st (s : State) (c : Bool) : (s.setVF c).st = s.st := rfl
@[simp] theorem State.setVF_keys (s : State) (c : Bool) : (s.setVF c).keys = s.keys := rfl
@[simp] theorem State.setVF_prevKeys (s : State) (c : Bool) : (s.setVF c).prevKeys = s.prevKeys := rfl
@[simp] theorem State.setVF_pattern (s : State) (c : Bool) : (s.setVF c).pattern = s.pattern := rfl
@[simp] theorem State.setVF_halted (s : State) (c : Bool) : (s.setVF c).halted = s.halted := rfl
@[simp] theorem State.setVF_mailbox (s : State) (c : Bool) : (s.setVF c).mailbox = s.mailbox := rfl
@[simp] theorem State.setVF_cfg (s : State) (c : Bool) : (s.setVF c).cfg = s.cfg := rfl
@[simp] theorem State.setVF_now (s : State) (c : Bool) : (s.setVF c).now = s.now := rfl
@[simp] theorem State.setVF_rand8 (s : State) (c : Bool) : (s.setVF c).rand8 = s.rand8 := rfl
@[simp] theorem State.setVF_inputs (s : State) (c : Bool) : (s.setVF c).inputs = s.inputs := rfl
@[simp] theorem State.setVF_ticks (s : State) (c : Bool) : (s.setVF c).ticks = s.ticks := rfl
@[simp] theorem State.setVF_result (s : State) (c : Bool) : (s.setVF c).result = s.result := rfl
@[simp] theorem State.setVF_events (s : State) (c : Bool) : (s.setVF c).events = s.events := rfl

/-! ### `logicReset` -/

@[simp] theorem State.logicReset_i (s : State) : (s.logicReset).i = s.i := by unfold State.logicReset; split <;> rfl
@[simp] theorem State.logicReset_pc (s : State) : (s.logicReset).pc = s.pc := by unfold State.logicReset; split <;> rfl
@[simp] theorem State.logicReset_stack (s : State) : (s.logicReset).stack = s.stack := by unfold State.logicReset; split <;> rfl
@[simp] theorem State.logicReset_sp (s : State) : (s.logicReset).sp = s.sp := by unfold State.logicReset; split <;> rfl
@[simp] theorem State.logicReset_mem (s : State) : (s.logicReset).mem = s.mem := by unfold State.logicReset; split <;> rfl
@[simp] theorem State.logicReset_mode (s : State) : (s.logicReset).mode = s.mode := by unfold State.logicReset; split <;> rfl
@[simp] theorem State.logicReset_planes (s : State) : (s.logicReset).planes = s.planes := by unfold State.logicReset; split <;> rfl
@[simp] theorem State.logicReset_activePlanes (s : State) : (s.logicReset).activePlanes = s.activePlanes := by unfold State.logicReset; split <;> rfl
@[simp] theorem State.logicReset_palette (s : State) : (s.logicReset).palette = s.palette := by unfold State.logicReset; split <;> rfl
@[simp] theorem State.logicReset_updated (s : State) : (s.logicReset).updated = s.updated := by unfold State.logicReset; split <;> rfl
@[simp] theorem State.logicReset_updates (s : State) : (s.logicReset).updates = s.updates := by unfold State.logicReset; split <;> rfl
@[simp] theorem State.logicReset_dt (s : State) : (s.logicReset).dt = s.dt := by unfold State.logicReset; split <;> rfl
@[simp] theorem State.logicReset_st (s : State) : (s.logicReset).st = s.st := by unfold State.logicReset; split <;> rfl
@[simp] theorem State.logicReset_keys (s : State) : (s.logicReset).keys = s.keys := by unfold State.logicReset; split <;> rfl
@[simp] theorem State.logicReset_prevKeys (s : State) : (s.logicReset).prevKeys = s.prevKeys := by unfold State.logicReset; split <;> rfl
@[simp] theorem State.logicReset_pattern (s : State) : (s.logicReset).pattern = s.pattern := by unfold State.logicReset; split <;> rfl
@[simp] theorem State.logicReset_halted (s : State) : (s.logicReset).halted = s.halted := by unfold State.logicReset; split <;> rfl
@[simp] theorem State.logicReset_mailbox (s : State) : (s.logicReset).mailbox = s.mailbox := by unfold State.logicReset; split <;> rfl
@[simp] theorem State.logicReset_cfg (s : State) : (s.logicReset).cfg = s.cfg := by unfold State.logicReset; split <;> rfl
@[simp] theorem State.logicReset_now (s : State) : (s.logicReset).now = s.now := by unfold State.logicReset; split <;> rfl
@[simp] theorem State.logicReset_rand8 (s : State) : (s.logicReset).rand8 = s.rand8 := by unfold State.logicReset; split <;> rfl
@[simp] theorem State.logicReset_inputs (s : State) : (s.logicReset).inputs = s.inputs := by unfold State.logicReset; split <;> rfl
@[simp] theorem State.logicReset_ticks (s : State) : (s.logicReset).ticks = s.ticks := by unfold State.logicReset; split <;> rfl
@[simp] theorem State.logicReset_result (s : State) : (s.logicReset).result = s.result := by unfold State.logicReset; split <;> rfl
@[simp] theorem State.logicReset_events (s : State) : (s.logicReset).events = s.events := by unfold State.logicReset; split <;> rfl

/-! ### `stepI` -/

@[simp] theorem State.stepI_v (s : State) (n : Nat) : (s.stepI n).v = s.v := by unfold State.stepI; split <;> rfl
@[simp] theorem State.stepI_pc (s : State) (n : Nat) : (s.stepI n).pc = s.pc := by unfold State.stepI; split <;> rfl
@[simp] theorem State.stepI_stack (s : State) (n : Nat) : (s.stepI n).stack = s.stack := by unfold State.stepI; split <;> rfl
@[simp] theorem State.stepI_sp (s : State) (n : Nat) : (s.stepI n).sp = s.sp := by unfold State.stepI; split <;> rfl
@[simp] theorem State.stepI_mem (s : State) (n : Nat) : (s.stepI n).mem = s.mem := by unfold State.stepI; split <;> rfl
@[simp] theorem State.stepI_mode (s : State) (n : Nat) : (s.stepI n).mode = s.mode := by unfold State.stepI; split <;> rfl
@[simp] theorem State.stepI_planes (s : State) (n : Nat) : (s.stepI n).planes = s.planes := by unfold State.stepI; split <;> rfl
@[simp] theorem State.stepI_activePlanes (s : State) (n : Nat) : (s.stepI n).activePlanes = s.activePlanes := by unfold State.stepI; split <;> rfl
@[simp] theorem State.stepI_palette (s : State) (n : Nat) : (s.stepI n).palette = s.palette := by unfold State.stepI; split <;> rfl
@[simp] theorem State.stepI_updated (s : State) (n : Nat) : (s.stepI n).updated = s.updated := by unfold State.stepI; split <;> rfl
@[simp] theorem State.stepI_updates (s : State) (n : Nat) : (s.stepI n).updates = s.updates := by unfold State.stepI; split <;> rfl
@[simp] theorem State.stepI_dt (s : State) (n : Nat) : (s.stepI n).dt = s.dt := by unfold State.stepI; split <;> rfl
@[simp] theorem State.stepI_st (s : State) (n : Nat) : (s.stepI n).st = s.st := by unfold State.stepI; split <;> rfl
@[simp] theorem State.stepI_keys (s : State) (n : Nat) : (s.stepI n).keys = s.keys := by unfold State.stepI; split <;> rfl
@[simp] theorem State.stepI_prevKeys (s : State) (n : Nat) : (s.stepI n).prevKeys = s.prevKeys := by unfold State.stepI; split <;> rfl
@[simp] theorem State.stepI_pattern (s : State) (n : Nat) : (s.stepI n).pattern = s.pattern := by unfold State.stepI; split <;> rfl
@[simp] theorem State.stepI_halted (s : State) (n : Nat) : (s.stepI n).halted = s.halted := by unfold State.stepI; split <;> rfl
@[simp] theorem State.stepI_mailbox (s : State) (n : Nat) : (s.stepI n).mailbox = s.mailbox := by unfold State.stepI; split <;> rfl
@[simp] theorem State.stepI_cfg (s : State) (n : Nat) : (s.stepI n).cfg = s.cfg := by unfold State.stepI; split <;> rfl
@[simp] theorem State.stepI_now (s : State) (n : Nat) : (s.stepI n).now = s.now := by unfold State.stepI; split <;> rfl
@[simp] theorem State.stepI_rand8 (s : State) (n : Nat) : (s.stepI n).rand8 = s.rand8 := by unfold State.stepI; split <;> rfl
@[simp] theorem State.stepI_inputs (s : State) (n : Nat) : (s.stepI n).inputs = s.inputs := by unfold State.stepI; split <;> rfl
@[simp] theorem State.stepI_ticks (s : State) (n : Nat) : (s.stepI n).ticks = s.ticks := by unfold State.stepI; split <;> rfl
@[simp] theorem State.stepI_result (s : State) (n : Nat) : (s.stepI n).result = s.result := by unfold State.stepI; split <;> rfl
@[simp] theorem State.stepI_events (s : State) (n : Nat) : (s.stepI n).events = s.events := by unfold State.stepI; split <;> rfl

/-! ### `mapActive` -/

@[simp] theorem State.mapActive_v (s : State) (f : Bitmap → Bitmap) : (s.mapActive f).v = s.v := rfl
@[simp] theorem State.mapActive_i (s : State) (f : Bitmap → Bitmap) : (s.mapActive f).i = s.i := rfl
@[simp] theorem State.mapActive_pc (s : State) (f : Bitmap → Bitmap) : (s.mapActive f).pc = s.pc := rfl
@[simp] theorem State.mapActive_stack (s : State) (f : Bitmap → Bitmap) : (s.mapActive f).stack = s.stack := rfl
@[simp] theorem State.mapActive_sp (s : State) (f : Bitmap → Bitmap) : (s.mapActive f).sp = s.sp := rfl
@[simp] theorem State.mapActive_mem (s : State) (f : Bitmap → Bitmap) : (s.mapActive f).mem = s.mem := rfl
@[simp] theorem State.mapActive_mode (s : State) (f : Bitmap → Bitmap) : (s.mapActive f).mode = s.mode := rfl
@[simp] theorem State.mapActive_activePlanes (s : State) (f : Bitmap → Bitmap) : (s.mapActive f).activePlanes = s.activePlanes := rfl
@[simp] theorem State.mapActive_palette (s : State) (f : Bitmap → Bitmap) : (s.mapActive f).palette = s.palette := rfl
@[simp] theorem State.mapActive_updated (s : State) (f : Bitmap → Bitmap) : (s.mapActive f).updated = s.updated := rfl
@[simp] theorem State.mapActive_updates (s : State) (f : Bitmap → Bitmap) : (s.mapActive f).updates = s.updates := rfl
@[simp] theorem State.mapActive_dt (s : State) (f : Bitmap → Bitmap) : (s.mapActive f).dt = s.dt := rfl
@[simp] theorem State.mapActive_st (s : State) (f : Bitmap → Bitmap) : (s.mapActive f).st = s.st := rfl
@[simp] theorem State.mapActive_keys (s : State) (f : Bitmap → Bitmap) : (s.mapActive f).keys = s.keys := rfl
@[simp] theorem State.mapActive_prevKeys (s : State) (f : Bitmap → Bitmap) : (s.mapActive f).prevKeys = s.prevKeys := rfl
@[simp] theorem State.mapActive_pattern (s : State) (f : Bitmap → Bitmap) : (s.mapActive f).pattern = s.pattern := rfl
@[simp] theorem State.mapActive_halted (s : State) (f : Bitmap → Bitmap) : (s.mapActive f).halted = s.halted := rfl
@[simp] theorem State.mapActive_mailbox (s : State) (f : Bitmap → Bitmap) : (s.mapActive f).mailbox = s.mailbox := rfl
@[simp] theorem State.mapActive_cfg (s : State) (f : Bitmap → Bitmap) : (s.mapActive f).cfg = s.cfg := rfl
@[simp] theorem State.mapActive_now (s : State) (f : Bitmap → Bitmap) : (s.mapActive f).now = s.now := rfl
@[simp] theorem State.mapActive_rand8 (s : State) (f : Bitmap → Bitmap) : (s.mapActive f).rand8 = s.rand8 := rfl
@[simp] theorem State.mapActive_inputs (s : State) (f : Bitmap → Bitmap) : (s.mapActive f).inputs = s.inputs := rfl
@[simp] theorem State.mapActive_ticks (s : State) (f : Bitmap → Bitmap) : (s.mapActive f).ticks = s.ticks := rfl
@[simp] theorem State.mapActive_result (s : State) (f : Bitmap → Bitmap) : (s.mapActive f).result = s.result := rfl
@[simp] theorem State.mapActive_events (s : State) (f : Bitmap → Bitmap) : (s.mapActive f).events = s.events := rfl

/-! ### `armSound` -/

@[simp] theorem State.armSound_v (s : State) (b : Byte) : (s.armSound b).v = s.v := by unfold State.armSound; split <;> rfl
@[simp] theorem State.armSound_i (s : State) (b : Byte) : (s.armSound b).i = s.i := by unfold State.armSound; split <;> rfl
@[simp] theorem State.armSound_pc (s : State) (b : Byte) : (s.armSound b).pc = s.pc := by unfold State.armSound; split <;> rfl
@[simp] theorem State.armSound_stack (s : State) (b : Byte) : (s.armSound b).stack = s.stack := by unfold State.armSound; split <;> rfl
@[simp] theorem State.armSound_sp (s : State) (b : Byte) : (s.armSound b).sp = s.sp := by unfold State.armSound; split <;> rfl
@[simp] theorem State.armSound_mem (s : State) (b : Byte) : (s.armSound b).mem = s.mem := by unfold State.armSound; split <;> rfl
@[simp] theorem State.armSound_mode (s : State) (b : Byte) : (s.armSound b).mode = s.mode := by unfold State.armSound; split <;> rfl
@[simp] theorem State.armSound_planes (s : State) (b : Byte) : (s.armSound b).planes = s.planes := by unfold State.armSound; split <;> rfl
@[simp] theorem State.armSound_activePlanes (s : State) (b : Byte) : (s.armSound b).activePlanes = s.activePlanes := by unfold State.armSound; split <;> rfl
@[simp] theorem State.armSound_palette (s : State) (b : Byte) : (s.armSound b).palette = s.palette := by unfold State.armSound; split <;> rfl
@[simp] theorem State.armSound_updated (s : State) (b : Byte) : (s.armSound b).updated = s.updated := by unfold State.armSound; split <;> rfl
@[simp] theorem State.armSound_updates (s : State) (b : Byte) : (s.armSound b).updates = s.updates := by unfold State.armSound; split <;> rfl
@[simp] theorem State.armSound_dt (s : State) (b : Byte) : (s.armSound b).dt = s.dt := by unfold State.armSound; split <;> rfl
@[simp] theorem State.armSound_keys (s : State) (b : Byte) : (s.armSound b).keys = s.keys := by unfold State.armSound; split <;> rfl
@[simp] theorem State.armSound_prevKeys (s : State) (b : Byte) : (s.armSound b).prevKeys = s.prevKeys := by unfold State.armSound; split <;> rfl
@[simp] theorem State.armSound_pattern (s : State) (b : Byte) : (s.armSound b).pattern = s.pattern := by unfold State.armSound; split <;> rfl
@[simp] theorem State.armSound_halted (s : State) (b : Byte) : (s.armSound b).halted = s.halted := by unfold State.armSound; split <;> rfl
@[simp] theorem State.armSound_mailbox (s : State) (b : Byte) : (s.armSound b).mailbox = s.mailbox := by unfold State.armSound; split <;> rfl
@[simp] theorem State.armSound_cfg (s : State) (b : Byte) : (s.armSound b).cfg = s.cfg := by unfold State.armSound; split <;> rfl
@[simp] theorem State.armSound_now (s : State) (b : Byte) : (s.armSound b).now = s.now := by unfold State.armSound; split <;> rfl
@[simp] theorem State.armSound_rand8 (s : State) (b : Byte) : (s.armSound b).rand8 = s.rand8 := by unfold State.armSound; split <;> rfl
@[simp] theorem State.armSound_inputs (s : State) (b : Byte) : (s.armSound b).inputs = s.inputs := by unfold State.armSound; split <;> rfl
@[simp] theorem State.armSound_ticks (s : State) (b : Byte) : (s.armSound b).ticks = s.ticks := by unfold State.armSound; split <;> rfl
@[simp] theorem State.armSound_result (s : State) (b : Byte) : (s.armSound b).result = s.result := by unfold State.armSound; split <;> rfl

/-! ### `setRegs`: only V changes -/

theorem State.setRegs_only_v (xs : List Reg) : ∀ (s : State) (bs : List Byte),
    s.setRegs xs bs = { s with v := (s.setRegs xs bs).v } := by
  induction xs with
  | nil => intro s bs; rfl
  | cons x xs ih =>
    intro s bs
    cases bs with
    | nil => rfl
    | cons b bs =>
      have h := ih (s.setV x b) bs
      calc s.setRegs (x :: xs) (b :: bs) = (s.setV x b).setRegs xs bs := rfl
        _ = { s.setV x b with v := ((s.setV x b).setRegs xs bs).v } := h
        _ = _ := rfl

@[simp] theorem State.setRegs_i (s : State) (xs : List Reg) (bs : List Byte) : (s.setRegs xs bs).i = s.i := by
  rw [State.setRegs_only_v]
@[simp] theorem State.setRegs_pc (s : State) (xs : List Reg) (bs : List Byte) : (s.setRegs xs bs).pc = s.pc := by
  rw [State.setRegs_only_v]
@[simp] theorem State.setRegs_stack (s : State) (xs : List Reg) (bs : List Byte) : (s.setRegs xs bs).stack = s.stack := by
  rw [State.setRegs_only_v]
@[simp] theorem State.setRegs_sp (s : State) (xs : List Reg) (bs : List Byte) : (s.setRegs xs bs).sp = s.sp := by
  rw [State.setRegs_only_v]
@[simp] theorem State.setRegs_mem (s : State) (xs : List Reg) (bs : List Byte) : (s.setRegs xs bs).mem = s.mem := by
  rw [State.setRegs_only_v]
@[simp] theorem State.setRegs_mode (s : State) (xs : List Reg) (bs : List Byte) : (s.setRegs xs bs).mode = s.mode := by
  rw [State.setRegs_only_v]
@[simp] theorem State.setRegs_planes (s : State) (xs : List Reg) (bs : List Byte) : (s.setRegs xs bs).planes = s.planes := by
  rw [State.setRegs_only_v]
@[simp] theorem State.setRegs_activePlanes (s : State) (xs : List Reg) (bs : List Byte) : (s.setRegs xs bs).activePlanes = s.activePlanes := by
  rw [State.setRegs_only_v]
@[simp] theorem State.setRegs_palette (s : State) (xs : List Reg) (bs : List Byte) : (s.setRegs xs bs).palette = s.palette := by
  rw [State.setRegs_only_v]
@[simp] theorem State.setRegs_updated (s : State) (xs : List Reg) (bs : List Byte) : (s.setRegs xs bs).updated = s.updated := by
  rw [State.setRegs_only_v]
@[simp] theorem State.setRegs_updates (s : State) (xs : List Reg) (bs : List Byte) : (s.setRegs xs bs).updates = s.updates := by
  rw [State.setRegs_only_v]
@[simp] theorem State.setRegs_dt (s : State) (xs : List Reg) (bs : List Byte) : (s.setRegs xs bs).dt = s.dt := by
  rw [State.setRegs_only_v]
@[simp] theorem State.setRegs_st (s : State) (xs : List Reg) (bs : List Byte) : (s.setRegs xs bs).st = s.st := by
  rw [State.setRegs_only_v]
@[simp] theorem State.setRegs_keys (s : State) (xs : List Reg) (bs : List Byte) : (s.setRegs xs bs).keys = s.keys := by
  rw [State.setRegs_only_v]
@[simp] theorem State.setRegs_prevKeys (s : State) (xs : List Reg) (bs : List Byte) : (s.setRegs xs bs).prevKeys = s.prevKeys := by
  rw [State.setRegs_only_v]
@[simp] theorem State.setRegs_pattern (s : State) (xs : List Reg) (bs : List Byte) : (s.setRegs xs bs).pattern = s.pattern := by
  rw [State.setRegs_only_v]
@[simp] theorem State.setRegs_halted (s : State) (xs : List Reg) (bs : List Byte) : (s.setRegs xs bs).halted = s.halted := by
  rw [State.setRegs_only_v]
@[simp] theorem State.setRegs_mailbox (s : State) (xs : List Reg) (bs : List Byte) : (s.setRegs xs bs).mailbox = s.mailbox := by
  rw [State.setRegs_only_v]
@[simp] theorem State.setRegs_cfg (s : State) (xs : List Reg) (bs : List Byte) : (s.setRegs xs bs).cfg = s.cfg := by
  rw [State.setRegs_only_v]
@[simp] theorem State.setRegs_now (s : State) (xs : List Reg) (bs : List Byte) : (s.setRegs xs bs).now = s.now := by
  rw [State.setRegs_only_v]
@[simp] theorem State.setRegs_rand8 (s : State) (xs : List Reg) (bs : List Byte) : (s.setRegs xs bs).rand8 = s.rand8 := by
  rw [State.setRegs_only_v]
@[simp] theorem State.setRegs_inputs (s : State) (xs : List Reg) (bs : List Byte) : (s.setRegs xs bs).inputs = s.inputs := by
  rw [State.setRegs_only_v]
@[simp] theorem State.setRegs_ticks (s : State) (xs : List Reg) (bs : List Byte) : (s.setRegs xs bs).ticks = s.ticks := by
  rw [State.setRegs_only_v]
@[simp] theorem State.setRegs_result (s : State) (xs : List Reg) (bs : List Byte) : (s.setRegs xs bs).result = s.result := by
  rw [State.setRegs_only_v]
@[simp] theorem State.setRegs_events (s : State) (xs : List Reg) (bs : List Byte) : (s.setRegs xs bs).events = s.events := by
  rw [State.setRegs_only_v]

/-! ### Registers -/

theorem State.reg_setV_same (s : State) (x : Reg) (b : Byte) : (s.setV x b).reg x = b := by
  simp [State.reg]

theorem State.reg_setV_other (s : State) {x r : Reg} (b : Byte) (h : r ≠ x) : (s.setV x b).reg r = s.reg r := by
  have hv : (x : Nat) ≠ r := fun e => h (Fin.ext e.symm)
  simp [State.reg, Vector.getElem_set_ne, hv]

/-- Reading any register after writing one. -/
@[simp] theorem State.reg_setV (s : State) (x r : Reg) (b : Byte) :
    (s.setV x b).reg r = if r = x then b else s.reg r := by
  split
  · next h => rw [h, State.reg_setV_same]
  · next h => exact State.reg_setV_other s b h

@[simp] theorem State.reg_setVF (s : State) (r : Reg) (c : Bool) :
    (s.setVF c).reg r = if r = vf then flagByte c else s.reg r := State.reg_setV s vf r _

@[simp] theorem State.reg_logicReset (s : State) (r : Reg) :
    s.logicReset.reg r = if r = vf ∧ s.cfg.logicVfReset = true then 0 else s.reg r := by
  unfold State.logicReset
  by_cases h : s.cfg.logicVfReset = true <;> simp [h]

/-- V alone decides what the registers read. -/
theorem State.reg_congr {s t : State} (h : t.v = s.v) (r : Reg) : t.reg r = s.reg r := by
  simp [State.reg, h]

@[simp] theorem State.reg_setI (s : State) (w : Word) (x : Reg) : (s.setI w).reg x = s.reg x :=
  State.reg_congr (by simp) x
@[simp] theorem State.reg_setPc (s : State) (w : Word) (x : Reg) : (s.setPc w).reg x = s.reg x :=
  State.reg_congr (by simp) x
@[simp] theorem State.reg_writeBytes (s : State) (a : Nat) (bs : List Byte) (x : Reg) : (s.writeBytes a bs).reg x = s.reg x :=
  State.reg_congr (by simp) x
@[simp] theorem State.reg_markUpdated (s : State) (x : Reg) : (s.markUpdated).reg x = s.reg x :=
  State.reg_congr (by simp) x
@[simp] theorem State.reg_setPlanes (s : State) (ps : List Bitmap) (x : Reg) : (s.setPlanes ps).reg x = s.reg x :=
  State.reg_congr (by simp) x
@[simp] theorem State.reg_mapActive (s : State) (f : Bitmap → Bitmap) (x : Reg) : (s.mapActive f).reg x = s.reg x :=
  State.reg_congr (by simp) x
@[simp] theorem State.reg_setMode (s : State) (m : Mode) (x : Reg) : (s.setMode m).reg x = s.reg x :=
  State.reg_congr (by simp) x
@[simp] theorem State.reg_setActivePlanes (s : State) (m : Byte) (x : Reg) : (s.setActivePlanes m).reg x = s.reg x :=
  State.reg_congr (by simp) x
@[simp] theorem State.reg_setDt (s : State) (b : Byte) (x : Reg) : (s.setDt b).reg x = s.reg x :=
  State.reg_congr (by simp) x
@[simp] theorem State.reg_setSt (s : State) (b : Byte) (x : Reg) : (s.setSt b).reg x = s.reg x :=
  State.reg_congr (by simp) x
@[simp] theorem State.reg_armSound (s : State) (b : Byte) (x : Reg) : (s.armSound b).reg x = s.reg x :=
  State.reg_congr (by simp) x
@[simp] theorem State.reg_setPattern (s : State) (p : Vector Byte 16) (x : Reg) : (s.setPattern p).reg x = s.reg x :=
  State.reg_congr (by simp) x
@[simp] theorem State.reg_snapshotKeys (s : State) (x : Reg) : (s.snapshotKeys).reg x = s.reg x :=
  State.reg_congr (by simp) x
@[simp] theorem State.reg_setResult (s : State) (r : TickResult) (x : Reg) : (s.setResult r).reg x = s.reg x :=
  State.reg_congr (by simp) x
@[simp] theorem State.reg_takeFault (s : State) (w : Word) (k : Fault) (x : Reg) : (s.takeFault w k).reg x = s.reg x :=
  State.reg_congr (by simp) x
@[simp] theorem State.reg_stepI (s : State) (n : Nat) (x : Reg) : (s.stepI n).reg x = s.reg x :=
  State.reg_congr (by simp) x
@[simp] theorem State.reg_push (s : State) (h : s.sp.toNat < 16) (x : Reg) : (s.push h).reg x = s.reg x :=
  State.reg_congr (by simp) x
@[simp] theorem State.reg_pop (s : State) (h : s.sp.toNat - 1 < 16) (x : Reg) : (s.pop h).reg x = s.reg x :=
  State.reg_congr (by simp) x
@[simp] theorem State.reg_beginTick (s : State) (x : Reg) : (s.beginTick).reg x = s.reg x :=
  State.reg_congr (by simp) x

end Sys2Proof.Machine
end

