-- ==== Sys2Proof/Laws/Memory.lean ====
section
/-! SUPPORT. Memory: a read after a write, and that every operation keeps the canonical form. -/

namespace Sys2Proof.Machine

variable {d : Nat → Byte}

theorem Memory.read_filter_same (m : Memory) (a : Nat) :
    Memory.read d (m.filter fun c => c.1 != a) a = d a := by
  induction m with
  | nil => rfl
  | cons c m ih =>
    by_cases h : c.1 = a
    · simpa [List.filter_cons, h] using ih
    · simpa [List.filter_cons, h, Memory.read] using ih

theorem Memory.read_filter_other (m : Memory) {a k : Nat} (hk : k ≠ a) :
    Memory.read d (m.filter fun c => c.1 != a) k = Memory.read d m k := by
  induction m with
  | nil => rfl
  | cons c m ih =>
    by_cases h : c.1 = a
    · have hck : ¬ c.1 = k := fun e => hk (e.symm.trans h)
      have hak : ¬ a = k := fun e => hk e.symm
      simp [h, Memory.read, hak, ih]
    · by_cases hck : c.1 = k <;> simp [h, Memory.read, hck, ih, hk]

theorem Memory.read_insert (m : Memory) (a : Nat) (b : Byte) (k : Nat) (hm : ∀ c ∈ m, c.1 ≠ a) :
    Memory.read d (Memory.insert a b m) k = if k = a then b else Memory.read d m k := by
  induction m with
  | nil =>
    by_cases h : a = k
    · simp [Memory.insert, Memory.read, h]
    · simp [Memory.insert, Memory.read, h, Ne.symm h]
  | cons c m ih =>
    have hc : c.1 ≠ a := hm c (by simp)
    have ih := ih fun x hx => hm x (by simp [hx])
    unfold Memory.insert
    split
    · by_cases h : a = k
      · simp [Memory.read, h]
      · simp [Memory.read, h, Ne.symm h]
    · by_cases hk : c.1 = k
      · have : k ≠ a := fun e => hc (hk.trans e)
        simp [Memory.read, hk, this]
      · simp [Memory.read, hk, ih]

theorem Memory.mem_filter_ne {m : Memory} {a : Nat} : ∀ c ∈ m.filter (fun c => c.1 != a), c.1 ≠ a := by
  intro c hc
  simpa using (List.mem_filter.1 hc).2

/-- A read after a write: the byte written at its address, the old one elsewhere. -/
theorem Memory.read_write (m : Memory) (a : Nat) (b : Byte) (k : Nat) :
    Memory.read d (Memory.write d m a b) k = if k = a then b else Memory.read d m k := by
  unfold Memory.write
  split
  · next h =>
    by_cases hk : k = a
    · subst hk; simp [Memory.read_filter_same, h]
    · simp [Memory.read_filter_other m hk, hk]
  · rw [Memory.read_insert _ _ _ _ Memory.mem_filter_ne]
    by_cases hk : k = a
    · simp [hk]
    · simp [hk, Memory.read_filter_other m hk]

/-- A read after a list of writes: byte k - a of the list inside it, the old byte outside. -/
theorem Memory.read_writeList (bs : List Byte) : ∀ (m : Memory) (a k : Nat),
    Memory.read d (Memory.writeList d m a bs) k =
      if a ≤ k ∧ k < a + bs.length then bs.getD (k - a) 0 else Memory.read d m k := by
  induction bs with
  | nil => intro m a k; simp [Memory.writeList]
  | cons b bs ih =>
    intro m a k
    rw [Memory.writeList, ih, Memory.read_write]
    by_cases hk : k = a
    · subst hk
      simp
    · by_cases hin : a + 1 ≤ k ∧ k < a + 1 + bs.length
      · obtain ⟨n, rfl⟩ : ∃ n, k = a + 1 + n := ⟨k - (a + 1), by omega⟩
        have h2 : a ≤ a + 1 + n ∧ a + 1 + n < a + (b :: bs).length := by simp; omega
        have h3 : a + 1 + n - a = n + 1 := by omega
        have h4 : a + 1 + n - (a + 1) = n := by omega
        rw [if_pos hin, if_pos h2, h3, h4]; simp
      · have h2 : ¬ (a ≤ k ∧ k < a + (b :: bs).length) := by simp; omega
        rw [if_neg hin, if_neg hk, if_neg h2]

/-! ### The canonical form -/

theorem Memory.risingFrom_mono {m : Memory} {lo lo' : Nat} (h : lo ≤ lo') (hm : Memory.risingFrom lo' m = true) :
    Memory.risingFrom lo m = true := by
  cases m with
  | nil => rfl
  | cons c m => simp only [Memory.risingFrom, Bool.and_eq_true, decide_eq_true_eq] at hm ⊢; exact ⟨by omega, hm.2⟩

theorem Memory.risingFrom_filter (p : Host.Cell → Bool) (m : Memory) :
    ∀ lo, Memory.risingFrom lo m = true → Memory.risingFrom lo (m.filter p) = true := by
  induction m with
  | nil => intro lo _; rfl
  | cons c m ih =>
    intro lo h
    simp only [Memory.risingFrom, Bool.and_eq_true, decide_eq_true_eq] at h
    by_cases hp : p c = true
    · simp [hp, Memory.risingFrom, h.1, ih _ h.2]
    · simpa [List.filter_cons, hp] using ih lo (Memory.risingFrom_mono (by omega) h.2)

theorem Memory.risingFrom_insert (a : Nat) (b : Byte) (m : Memory) :
    ∀ lo, lo ≤ a → (∀ c ∈ m, c.1 ≠ a) → Memory.risingFrom lo m = true →
      Memory.risingFrom lo (Memory.insert a b m) = true := by
  induction m with
  | nil => intro lo hlo _ _; simp [Memory.insert, Memory.risingFrom, hlo]
  | cons c m ih =>
    intro lo hlo hne h
    have hca : c.1 ≠ a := hne c (by simp)
    simp only [Memory.risingFrom, Bool.and_eq_true, decide_eq_true_eq] at h
    unfold Memory.insert
    split
    · next hlt =>
      simp only [Memory.risingFrom, Bool.and_eq_true, decide_eq_true_eq]
      exact ⟨hlo, hlt, h.2⟩
    · simp only [Memory.risingFrom, Bool.and_eq_true, decide_eq_true_eq]
      exact ⟨h.1, ih _ (by omega) (fun x hx => hne x (by simp [hx])) h.2⟩

theorem Memory.mem_insert {a : Nat} {b : Byte} {m : Memory} {c : Host.Cell} :
    c ∈ Memory.insert a b m ↔ c = (a, b) ∨ c ∈ m := by
  induction m with
  | nil => simp [Memory.insert]
  | cons x m ih =>
    unfold Memory.insert
    split
    · simp
    · simp only [List.mem_cons, ih]; tauto

theorem Memory.wf_iff (size : Nat) (m : Memory) :
    Memory.wf d size m = true ↔
      Memory.risingFrom 0 m = true ∧ ∀ c ∈ m, c.1 < size ∧ c.2 ≠ d c.1 := by
  simp [Memory.wf, List.all_eq_true]

/-- A write below `size` keeps the canonical form. -/
theorem Memory.wf_write {size : Nat} {m : Memory} (a : Nat) (b : Byte) (ha : a < size)
    (h : Memory.wf d size m = true) : Memory.wf d size (Memory.write d m a b) = true := by
  rw [Memory.wf_iff] at h ⊢
  have hf : Memory.risingFrom 0 (m.filter fun c => c.1 != a) = true := Memory.risingFrom_filter _ m 0 h.1
  have hc : ∀ c ∈ m.filter (fun c => c.1 != a), c.1 < size ∧ c.2 ≠ d c.1 :=
    fun c hc => h.2 c (List.mem_filter.1 hc).1
  unfold Memory.write
  split
  · exact ⟨hf, hc⟩
  · next hb =>
    refine ⟨Memory.risingFrom_insert a b _ 0 (by omega) Memory.mem_filter_ne hf, fun c hc' => ?_⟩
    rcases Memory.mem_insert.1 hc' with rfl | hin
    · exact ⟨ha, hb⟩
    · exact hc c hin

/-- A list of writes below `size` keeps the canonical form. -/
theorem Memory.wf_writeList {size : Nat} (bs : List Byte) : ∀ (m : Memory) (a : Nat),
    a + bs.length ≤ size → Memory.wf d size m = true → Memory.wf d size (Memory.writeList d m a bs) = true := by
  induction bs with
  | nil => intro m a _ h; exact h
  | cons b bs ih =>
    intro m a ha h
    simp only [List.length_cons] at ha
    exact ih _ _ (by omega) (Memory.wf_write a b (by omega) h)

theorem Memory.wf_nil (size : Nat) : Memory.wf d size [] = true := rfl

/-! ### The state's memory -/

/-- Reads depend on the memory and the parameters alone. -/
theorem State.readByte_congr {s t : State} (hm : t.mem = s.mem) (hc : t.cfg = s.cfg) (a : Nat) :
    t.readByte a = s.readByte a := by simp [State.readByte, hm, hc]

/-- A read after `MemWrite`. -/
@[simp] theorem State.readByte_writeBytes (s : State) (a : Nat) (bs : List Byte) (k : Nat) :
    (s.writeBytes a bs).readByte k = if a ≤ k ∧ k < a + bs.length then bs.getD (k - a) 0 else s.readByte k :=
  Memory.read_writeList bs s.mem a k

@[simp] theorem State.length_readBytes (s : State) (a n : Nat) : (s.readBytes a n).length = n := by
  simp [State.readBytes]

theorem State.getD_readBytes (s : State) (a n k : Nat) (h : k < n) :
    (s.readBytes a n).getD k 0 = s.readByte (a + k) := by
  simp [State.readBytes, h]

/-- `MemWrite` within memory keeps the canonical form. -/
theorem State.wf_writeBytes (s : State) (a : Nat) (bs : List Byte) (h : a + bs.length ≤ s.cfg.memSize)
    (hm : s.mem.wf (resetByte s.cfg) s.cfg.memSize = true) :
    (s.writeBytes a bs).mem.wf (resetByte s.cfg) s.cfg.memSize = true :=
  Memory.wf_writeList bs s.mem a h hm

/-- Reset memory is in canonical form, whatever the parameters. -/
theorem State.wf_resetWith (c : Config) (t0 : Seconds) :
    (State.resetWith c t0).mem.wf (resetByte c) c.memSize = true := Memory.wf_nil _

/-- A program load keeps the canonical form. -/
theorem State.wf_load {s t : State} {prog : List Byte} (h : s.load prog = some t) (hs : 0x200 ≤ s.cfg.memSize)
    (hm : s.mem.wf (resetByte s.cfg) s.cfg.memSize = true) :
    t.mem.wf (resetByte t.cfg) t.cfg.memSize = true := by
  unfold State.load at h
  split at h
  · next hl => cases h; exact State.wf_writeBytes s 0x200 prog (by omega) hm
  · cases h

end Sys2Proof.Machine
end

