-- ==== Sys2Proof/Laws/Ops.lean ====
section
/-! SUPPORT. The shared operations: what each can do, said once. -/

namespace Sys2Proof.Machine

/-! ### Closing a tick -/

@[simp] theorem Effect.settle_executed (t : State) (w : Word) (s : State) :
    (Effect.executed t).settle w s = t.setResult .executed := rfl

@[simp] theorem Effect.settle_blocked (t : State) (w : Word) (s : State) :
    (Effect.blocked t).settle w s = t.setResult .blocked := rfl

@[simp] theorem Effect.settle_raised (k : Fault) (w : Word) (s : State) :
    (Effect.raised k).settle w s = s.takeFault w k := rfl

/-- `commit` always answers a next state. -/
theorem commit_eq (i : Instr) (s : State) (e : Effect) : commit i s e = .next (e.settle (opcodeOf i) s) := rfl

/-- What the state after a tick can be: the completed state, the blocked state, or the state before with the
fault taken. -/
theorem commit_cases {i : Instr} {s t : State} {e : Effect} (h : commit i s e = .next t) :
    (∃ u, e = .executed u ∧ t = u.setResult .executed) ∨ (∃ u, e = .blocked u ∧ t = u.setResult .blocked)
      ∨ ∃ k, e = .raised k ∧ t = s.takeFault (opcodeOf i) k := by
  have h' : e.settle (opcodeOf i) s = t := by simpa [commit] using h
  cases e with
  | executed u => exact .inl ⟨u, rfl, h'.symm⟩
  | blocked u => exact .inr (.inl ⟨u, rfl, h'.symm⟩)
  | raised k => exact .inr (.inr ⟨k, rfl, h'.symm⟩)

/-! ### Advance (R203) -/

theorem advance_of_le {n : Nat} {s : State} (h : s.pc.toNat + n ≤ 0xFFFF) :
    advance n s = .executed (s.setPc (BitVec.ofNat 16 (s.pc.toNat + n))) := by
  unfold advance; rw [if_neg (by omega)]

theorem advance_of_gt {n : Nat} {s : State} (h : 0xFFFF < s.pc.toNat + n) : advance n s = .raised .pcOverflow := by
  unfold advance; rw [if_pos h]

/-- An advance moves PC by n without wrapping and changes nothing else, or raises `PcOverflow`. -/
theorem advance_cases (n : Nat) (s : State) :
    (s.pc.toNat + n ≤ 0xFFFF ∧ advance n s = .executed (s.setPc (BitVec.ofNat 16 (s.pc.toNat + n))))
      ∨ (0xFFFF < s.pc.toNat + n ∧ advance n s = .raised .pcOverflow) := by
  rcases Nat.lt_or_ge 0xFFFF (s.pc.toNat + n) with h | h
  · exact .inr ⟨h, advance_of_gt h⟩
  · exact .inl ⟨h, advance_of_le h⟩

/-! ### Access (R86) -/

theorem State.admits_iff (s : State) (a n : Nat) : s.admits a n = true ↔ n = 0 ∨ a + n ≤ s.cfg.memSize := by
  simp [State.admits]

theorem State.access_of_admits {s : State} {a n : Nat} (e : Effect) (h : s.admits a n = true) :
    s.access a n e = e := by
  unfold State.access; rw [if_pos h]

theorem State.access_of_not {s : State} {a n : Nat} (e : Effect) (h : s.admits a n = false) :
    s.access a n e = .raised (.memFault (s.firstBad a)) := by
  unfold State.access; rw [if_neg (by simp [h])]

/-- The recorded address of a refused access is the least one of the access not below `MEM_SIZE`. -/
theorem State.firstBad_spec {s : State} {a n : Nat} (h : s.admits a n = false) :
    a ≤ s.firstBad a ∧ s.firstBad a < a + n ∧ s.cfg.memSize ≤ s.firstBad a
      ∧ ∀ k, a ≤ k → s.cfg.memSize ≤ k → s.firstBad a ≤ k := by
  simp only [State.admits, Bool.or_eq_false_iff, beq_eq_false_iff_ne, decide_eq_false_iff_not] at h
  simp only [State.firstBad]
  refine ⟨?_, ?_, ?_, fun k hk hm => ?_⟩ <;> omega

/-! ### Skip (R204) -/

theorem skipIf_false (s : State) : skipIf false s = advance 2 s := by simp [skipIf]

theorem skipIf_true (s : State) :
    skipIf true s = s.access (s.pc.toNat + 2) 2 (advance (2 + s.lengthAt (s.pc.toNat + 2)) s) := by simp [skipIf]

theorem State.lengthAt_cases (s : State) (a : Nat) :
    (s.word16 a = longWord ∧ s.lengthAt a = 4) ∨ (s.word16 a ≠ longWord ∧ s.lengthAt a = 2) := by
  unfold State.lengthAt
  by_cases h : s.word16 a = longWord <;> simp [h]

/-- A skip moves PC and changes nothing else, or raises `MemFault` or `PcOverflow`. -/
theorem skipIf_cases (c : Bool) (s : State) :
    (∃ n, (n = 2 ∨ n = 4 ∨ n = 6) ∧ s.pc.toNat + n ≤ 0xFFFF
        ∧ skipIf c s = .executed (s.setPc (BitVec.ofNat 16 (s.pc.toNat + n))))
      ∨ skipIf c s = .raised .pcOverflow
      ∨ skipIf c s = .raised (.memFault (s.firstBad (s.pc.toNat + 2))) := by
  cases c with
  | false =>
    rw [skipIf_false]
    rcases advance_cases 2 s with ⟨h, e⟩ | ⟨_, e⟩
    · exact .inl ⟨2, .inl rfl, h, e⟩
    · exact .inr (.inl e)
  | true =>
    rw [skipIf_true]
    cases ha : s.admits (s.pc.toNat + 2) 2 with
    | false => exact .inr (.inr (State.access_of_not _ ha))
    | true =>
      rw [State.access_of_admits _ ha]
      rcases advance_cases (2 + s.lengthAt (s.pc.toNat + 2)) s with ⟨h, e⟩ | ⟨_, e⟩
      · refine .inl ⟨_, ?_, h, e⟩
        rcases s.lengthAt_cases (s.pc.toNat + 2) with ⟨_, h'⟩ | ⟨_, h'⟩ <;> omega
      · exact .inr (.inl e)

/-! ### Active planes (R48) -/

theorem State.mem_act (s : State) (p : Nat) : p ∈ s.act ↔ s.isActive p = true := by
  simp only [State.act, List.mem_filter, List.mem_range]
  refine ⟨fun h => h.2, fun h => ⟨?_, h⟩⟩
  simp only [State.isActive, Bool.and_eq_true] at h
  exact BitVec.lt_of_getLsbD h.2

/-- Plane p after an operation on the active planes. -/
theorem State.getD_mapActive (s : State) (f : Bitmap → Bitmap) (p : Nat) (hp : p < s.planes.length) :
    (s.mapActive f).planes.getD p [] = if s.isActive p then f (s.planes.getD p []) else s.planes.getD p [] := by
  have h : (s.planes.mapIdx fun p b => if s.isActive p then f b else b).length = s.planes.length := by simp
  simp only [State.mapActive, State.setPlanes]
  rw [List.getD_eq_getElem _ _ (by rw [h]; exact hp), List.getD_eq_getElem _ _ hp, List.getElem_mapIdx]

@[simp] theorem State.length_mapActive (s : State) (f : Bitmap → Bitmap) :
    (s.mapActive f).planes.length = s.planes.length := by simp [State.mapActive]

/-! ### The fetch (R202) -/

theorem State.length_fetchBytes (s : State) : s.fetchBytes.length = min 4 (s.cfg.memSize - s.pc.toNat) := by
  simp [State.fetchBytes]

/-- With an opcode word in memory, the fetched bytes begin with the two at PC. -/
theorem State.fetchBytes_eq {s : State} (h : s.pc.toNat + 1 < s.cfg.memSize) :
    ∃ rest, s.fetchBytes = s.readByte s.pc.toNat :: s.readByte (s.pc.toNat + 1) :: rest := by
  obtain ⟨n, hn⟩ : ∃ n, min 4 (s.cfg.memSize - s.pc.toNat) = n + 2 :=
    ⟨min 4 (s.cfg.memSize - s.pc.toNat) - 2, by omega⟩
  refine ⟨(List.range n).map fun k => s.readByte (s.pc.toNat + (k + 2)), ?_⟩
  rw [State.fetchBytes, State.readBytes, hn, List.range_succ_eq_map, List.range_succ_eq_map]
  simp [Function.comp_def]

/-- Each fetched byte is the byte of memory at its place after PC. -/
theorem State.getElem?_fetchBytes (s : State) {k : Nat} (hk : k < 4) (h : s.pc.toNat + k < s.cfg.memSize) :
    s.fetchBytes[k]? = some (s.readByte (s.pc.toNat + k)) := by
  rw [State.fetchBytes, State.readBytes, List.getElem?_map, List.getElem?_range (by omega)]
  rfl

/-- With four bytes in memory at PC, the fetch reads those four. -/
theorem State.fetchBytes_eq_four {s : State} (h : s.pc.toNat + 3 < s.cfg.memSize) :
    s.fetchBytes = [s.readByte s.pc.toNat, s.readByte (s.pc.toNat + 1), s.readByte (s.pc.toNat + 2),
      s.readByte (s.pc.toNat + 3)] := by
  rw [State.fetchBytes, State.readBytes, show min 4 (s.cfg.memSize - s.pc.toNat) = 4 by omega]
  rfl

/-! ### The input of a tick (R16) -/

theorem State.nextInput_of_cons {s : State} {inp : TickInput} {later : List TickInput}
    (h : s.inputs = inp :: later) : s.nextInput = inp := by simp [State.nextInput, h]

theorem State.nextInput_of_nil {s : State} (h : s.inputs = []) : s.nextInput = Config.freeInput s.ticks := by
  simp [State.nextInput, h]

end Sys2Proof.Machine
end

