-- ==== Sys2Proof/Laws/Effects.lean ====
section
/-! SUPPORT. What executing an instruction can do, said once: the next state is the instruction's `target`
with PC moved and the result recorded, or FX0A blocked, or the state before with a fault taken. -/

namespace Sys2Proof.Machine

/-- The state an instruction that completes leaves, but for PC and the result. -/
def target (s : State) : Instr → State
  | .scd n => (s.mapActive (scrolledDown s.mode n)).markUpdated
  | .scu n => (s.mapActive (scrolledUp s.mode n)).markUpdated
  | .cls => (s.mapActive fun _ => blank s.mode).markUpdated
  | .ret => if h : s.sp.toNat - 1 < 16 then s.pop h else s
  | .scr => (s.mapActive (scrolledRight s.mode)).markUpdated
  | .scl => (s.mapActive (scrolledLeft s.mode)).markUpdated
  | .low => (s.setMode .lores).markUpdated
  | .high => (s.setMode .hires).markUpdated
  | .call _ => if h : s.sp.toNat < 16 then s.push h else s
  | .jp _ | .jpV0 _ | .seImm _ _ | .sneImm _ _ | .seReg _ _ | .sneReg _ _ | .skp _ | .sknp _ => s
  | .stRange x y => s.writeBytes s.base (s.regs (regRange x y))
  | .ldRange x y => s.setRegs (regRange x y) (s.readBytes s.base (rangeLength x y))
  | .ldImm x nn => s.setV x (immByte nn)
  | .addImm x nn => s.setV x (s.reg x + immByte nn)
  | .ldReg x y => s.setV x (s.reg y)
  | .orReg x y => (s.setV x (s.reg x ||| s.reg y)).logicReset
  | .andReg x y => (s.setV x (s.reg x &&& s.reg y)).logicReset
  | .xorReg x y => (s.setV x (s.reg x ^^^ s.reg y)).logicReset
  | .addReg x y => (s.setV x (s.reg x + s.reg y)).setVF (carryOut (s.reg x) (s.reg y))
  | .subReg x y => (s.setV x (s.reg x - s.reg y)).setVF (noBorrow (s.reg x) (s.reg y))
  | .shr x y => (s.setV x (s.reg y >>> 1)).setVF (lowBitOut (s.reg y))
  | .subn x y => (s.setV x (s.reg y - s.reg x)).setVF (noBorrow (s.reg y) (s.reg x))
  | .shl x y => (s.setV x (s.reg y <<< 1)).setVF (highBitOut (s.reg y))
  | .ldI nnn => s.setI (immAddr nnn)
  | .rnd x nn => s.setV x (s.rand8 &&& immByte nn)
  | .drw x y n => ((s.setPlanes (s.drawnPlanes x y n)).setVF (s.drawCollides x y n)).markUpdated
  | .ldILong nnnn => s.setI (immAddr nnnn)
  | .plane mask => s.setActivePlanes (BitVec.ofNat 8 (mask % 4))
  | .audio => s.setPattern s.patternAtI
  | .ldVxDt x => s.setV x (s.dt.get s.now)
  | .ldVxK x => s.snapshotKeys.setV x (BitVec.ofNat 8 (s.firstFresh.getD 0).val)
  | .ldDtVx x => s.setDt (s.reg x)
  | .ldStVx x => s.armSound (s.reg x)
  | .addI x => s.setI (BitVec.ofNat 16 (s.base + (s.reg x).toNat))
  | .ldF x => s.setI (smallGlyph s.cfg (s.reg x))
  | .ldHf x => s.setI (bigGlyph s.cfg (s.reg x))
  | .ldB x => s.writeBytes s.base (decimalDigits (s.reg x))
  | .stRegs x => (s.writeBytes s.base (s.regs (regRange 0 x))).stepI (x.val + 1)
  | .ldRegs x => (s.setRegs (regRange 0 x) (s.readBytes s.base (x.val + 1))).stepI (x.val + 1)

/-- The bytes an instruction that completes has accessed besides those of the fetch (R86): the address and the
length, or none. -/
def accessed (s : State) : Instr → Option (Nat × Nat)
  | .drw _ _ n => some (s.base, spriteBytes n * s.act.length)
  | .ldILong _ => some (s.pc.toNat + 2, 2)
  | .ldB _ => some (s.base, 3)
  | .stRegs x => some (s.base, x.val + 1)
  | .ldRegs x => some (s.base, x.val + 1)
  | .stRange x y => some (s.base, rangeLength x y)
  | .ldRange x y => some (s.base, rangeLength x y)
  | .audio => some (s.base, 16)
  | .scd _ | .scu _ | .cls | .ret | .scr | .scl | .low | .high | .jp _ | .call _ | .jpV0 _ | .seImm _ _
  | .sneImm _ _ | .seReg _ _ | .sneReg _ _ | .skp _ | .sknp _ | .ldImm _ _ | .addImm _ _ | .ldReg _ _
  | .orReg _ _ | .andReg _ _ | .xorReg _ _ | .addReg _ _ | .subReg _ _ | .shr _ _ | .subn _ _ | .shl _ _
  | .ldI _ | .rnd _ _ | .plane _ | .ldVxDt _ | .ldVxK _ | .ldDtVx _ | .ldStVx _ | .addI _ | .ldF _
  | .ldHf _ => none

/-- What an effect can come to when it completes in `u` with PC moved, and otherwise raises. -/
def Effect.MovesPcOf (e : Effect) (u : State) : Prop :=
  (∃ p, e = .executed (u.setPc p)) ∨ ∃ k, e = .raised k

theorem advance_moves (n : Nat) (u : State) : (advance n u).MovesPcOf u := by
  rcases advance_cases n u with ⟨_, e⟩ | ⟨_, e⟩
  · exact .inl ⟨_, e⟩
  · exact .inr ⟨_, e⟩

theorem skipIf_moves (c : Bool) (s : State) : (skipIf c s).MovesPcOf s := by
  rcases skipIf_cases c s with ⟨_, _, _, e⟩ | e | e
  · exact .inl ⟨_, e⟩
  · exact .inr ⟨_, e⟩
  · exact .inr ⟨_, e⟩

/-- The ways a tick that executes `i` from `s` can end in `t`. -/
inductive Ends (i : Instr) (s t : State) : Prop where
  | executed (p : Word) (h : t = ((target s i).setPc p).setResult .executed)
      (hacc : ∀ a n, accessed s i = some (a, n) → s.admits a n = true)
  | blocked (x : Reg) (hi : i = .ldVxK x) (h : t = s.snapshotKeys.setResult .blocked)
  | faulted (k : Fault) (h : t = s.takeFault (opcodeOf i) k)

/-- An instruction that accesses no memory besides the fetch. -/
theorem Ends.of_moves {i : Instr} {s t : State} {e : Effect} (h : exec i s = .next t)
    (he : exec i s = commit i s e) (hacc : accessed s i = none) (hm : e.MovesPcOf (target s i)) : Ends i s t := by
  rw [he] at h
  rcases commit_cases h with ⟨u, hu, rfl⟩ | ⟨u, hu, _⟩ | ⟨k, _, rfl⟩
  · rcases hm with ⟨p, hp⟩ | ⟨k, hk⟩
    · rw [hu] at hp; cases hp
      exact .executed p rfl (by simp [hacc])
    · rw [hu] at hk; cases hk
  · rcases hm with ⟨p, hp⟩ | ⟨k, hk⟩
    · rw [hu] at hp; cases hp
    · rw [hu] at hk; cases hk
  · exact .faulted k rfl

/-- An instruction that makes an access first. -/
theorem Ends.of_access {i : Instr} {s t : State} {a n : Nat} {e : Effect} (h : exec i s = .next t)
    (he : exec i s = commit i s (s.access a n e)) (hacc : accessed s i = some (a, n))
    (hm : e.MovesPcOf (target s i)) : Ends i s t := by
  rw [he] at h
  cases ha : s.admits a n with
  | false =>
    rw [State.access_of_not _ ha] at h
    exact .faulted _ (by simpa [commit] using h.symm)
  | true =>
    rw [State.access_of_admits _ ha] at h
    rcases hm with ⟨p, rfl⟩ | ⟨k, rfl⟩
    · refine .executed p (by simpa [commit] using h.symm) fun a' n' h' => ?_
      rw [hacc] at h'; cases h'; exact ha
    · exact .faulted k (by simpa [commit] using h.symm)

/-- A jump, a call and their like set PC without `advance`. -/
theorem moves_executed (u : State) (p : Word) : (Effect.executed (u.setPc p)).MovesPcOf u := .inl ⟨p, rfl⟩

theorem moves_raised (u : State) (k : Fault) : (Effect.raised k).MovesPcOf u := .inr ⟨k, rfl⟩

theorem skipOnKey_moves (b : Byte) (want : Bool) (s : State) : (skipOnKey b want s).MovesPcOf s := by
  unfold skipOnKey; split
  · exact moves_raised _ _
  · exact skipIf_moves _ _

/-- The effect of 2NNN. -/
theorem call_moves (nnn : Nat) (s : State) :
    (if h : s.sp.toNat < 16 then Effect.executed ((s.push h).setPc (immAddr nnn))
      else .raised .stackOverflow).MovesPcOf (target s (.call nnn)) := by
  by_cases h : s.sp.toNat < 16
  · simp only [h, dite_true, target]; exact moves_executed _ _
  · simp only [h, dite_false]; exact moves_raised _ _

/-- The effect of 00EE. -/
theorem ret_moves (s : State) :
    (if s.sp = 0 then Effect.raised .stackUnderflow
      else if h : s.sp.toNat - 1 < 16 then advance 2 (s.pop h)
      else .raised .stackOverflow).MovesPcOf (target s .ret) := by
  split
  · exact moves_raised _ _
  · by_cases h : s.sp.toNat - 1 < 16
    · simp only [h, dite_true, target]; exact advance_moves _ _
    · simp only [h, dite_false]; exact moves_raised _ _

/-- FX0A blocks, or moves PC of its target. -/
theorem ldVxK_ends {x : Reg} {s t : State} (h : exec (.ldVxK x) s = .next t) : Ends (.ldVxK x) s t := by
  cases hf : s.firstFresh with
  | none => exact .blocked x rfl (by simpa [exec, execLdVxK, hf, commit] using h.symm)
  | some k =>
    refine Ends.of_moves h (e := advance 2 (s.snapshotKeys.setV x (BitVec.ofNat 8 k.val))) ?_ rfl ?_
    · simp [exec, execLdVxK, hf]
    · simp only [target, hf, Option.getD_some]; exact advance_moves _ _

/-- How every instruction can end. -/
theorem exec_ends {i : Instr} {s t : State} (h : exec i s = .next t) : Ends i s t := by
  cases i with
  | ldVxK x => exact ldVxK_ends h
  | call nnn => exact Ends.of_moves h rfl rfl (call_moves nnn s)
  | ret => exact Ends.of_moves h rfl rfl (ret_moves s)
  | jp nnn => exact Ends.of_moves h rfl rfl (moves_executed s _)
  | jpV0 nnn => exact Ends.of_moves h rfl rfl (moves_executed s _)
  | seImm x nn => exact Ends.of_moves h rfl rfl (skipIf_moves _ s)
  | sneImm x nn => exact Ends.of_moves h rfl rfl (skipIf_moves _ s)
  | seReg x y => exact Ends.of_moves h rfl rfl (skipIf_moves _ s)
  | sneReg x y => exact Ends.of_moves h rfl rfl (skipIf_moves _ s)
  | skp x => exact Ends.of_moves h rfl rfl (skipOnKey_moves _ _ s)
  | sknp x => exact Ends.of_moves h rfl rfl (skipOnKey_moves _ _ s)
  | drw | ldILong | ldB | stRegs | ldRegs | stRange | ldRange | audio =>
    exact Ends.of_access h rfl rfl (advance_moves _ _)
  | scd | scu | cls | scr | scl | low | high | ldImm | addImm | ldReg | orReg | andReg | xorReg | addReg
  | subReg | shr | subn | shl | ldI | rnd | plane | ldVxDt | ldDtVx | ldStVx | addI | ldF | ldHf =>
    exact Ends.of_moves h rfl rfl (advance_moves _ _)

end Sys2Proof.Machine
end

