-- ==== Sys2Proof/Laws/Forms.lean ====
section
/-! SUPPORT. The forms of completion of Safety.lean: what an instruction built on `advance`, `access` or
`skipIf` comes to. -/

namespace Sys2Proof.Machine

variable {i : Instr} {s u : State} {n a : Nat} {P : State → Prop}

theorem Faults.intro {k : Fault} (h : exec i s = commit i s (.raised k)) : Faults i s k := h

/-- An instruction whose effect is `advance n` of a state `u` with PC unchanged. -/
theorem Advances.intro (h : exec i s = commit i s (advance n u)) (hpc : u.pc = s.pc)
    (hP : ∀ p, P ((u.setPc p).setResult .executed)) : Advances i s n P := by
  refine ⟨fun hn => ⟨(u.setPc (BitVec.ofNat 16 (u.pc.toNat + n))).setResult .executed, ?_, rfl, ?_, hP _⟩,
    fun hn => ?_⟩
  · rw [h, advance_of_le (by rw [hpc]; exact hn)]; rfl
  · simp only [State.setResult_pc, State.setPc_pc, BitVec.toNat_ofNat, hpc]; omega
  · rw [Faults, h, advance_of_gt (by rw [hpc]; exact hn)]; rfl

/-- An instruction that makes an access first. -/
theorem Accesses.intro (h : exec i s = commit i s (s.access a n (advance 2 u))) (hn : 0 < n) (hpc : u.pc = s.pc)
    (hP : ∀ p, P ((u.setPc p).setResult .executed)) : Accesses i s a n P := by
  refine ⟨fun hle => Advances.intro ?_ hpc hP, fun hgt => ?_⟩
  · rw [h, State.access_of_admits _ ((s.admits_iff a n).2 (.inr hle))]
  · have : s.admits a n = false := by simp [State.admits]; omega
    rw [Faults, h, State.access_of_not _ this]; rfl

/-- Moving PC and recording the result changes nothing else. -/
theorem setPc_keeps (s : State) (p : Word) (r : TickResult) :
    RegsKept [] s ((s.setPc p).setResult r) ∧ OnlyChanges [] s ((s.setPc p).setResult r) := by
  refine ⟨fun _ _ => rfl, fun q _ => ?_⟩
  cases q
  case mem => exact fun _ => rfl
  all_goals exact rfl

/-- A skip, whose condition is tested as a Bool. -/
theorem SkipsIf.intro {c : Prop} {b : Bool} (h : exec i s = commit i s (skipIf b s)) (hb : b = true ↔ c) :
    SkipsIf c i s := by
  refine ⟨fun hc => ?_, fun hc hm hw => ?_, fun hc hm hw => ?_, fun hc hm => ?_⟩
  · have : b = false := by simpa using mt hb.1 hc
    exact Advances.intro (by rw [h, this, skipIf_false]) rfl fun p => setPc_keeps s p _
  all_goals rw [hb.2 hc, skipIf_true] at h
  · rw [State.access_of_admits _ ((State.admits_iff ..).2 (.inr (by omega))), State.lengthAt, longWord,
      if_neg hw] at h
    exact Advances.intro h rfl fun p => setPc_keeps s p _
  · rw [State.access_of_admits _ ((State.admits_iff ..).2 (.inr (by omega))), State.lengthAt, longWord,
      if_pos hw] at h
    exact Advances.intro h rfl fun p => setPc_keeps s p _
  · have : s.admits (s.pc.toNat + 2) 2 = false := by simp [State.admits]; omega
    rw [Faults, h, State.access_of_not _ this]; rfl

end Sys2Proof.Machine
end

