-- ==== Sys2Proof/Laws/Loop.lean ====
section
/-! SUPPORT. What the frame handshake and a turn of the tick loop can do, said once. -/

namespace Sys2Proof.Machine

@[simp] theorem State.toFrame_observe (s : State) : s.observe.toFrame = s.toFrame := rfl

@[simp] theorem Loop.consumeFrame_core (l : Loop) : l.consumeFrame.core = l.core := by
  unfold consumeFrame; split <;> rfl
@[simp] theorem Loop.consumeFrame_pending (l : Loop) : l.consumeFrame.pending = l.pending := by
  unfold consumeFrame; split <;> rfl
@[simp] theorem Loop.consumeFrame_frame (l : Loop) : l.consumeFrame.frame = none := by
  unfold consumeFrame; split <;> simp_all

theorem Loop.offer_of_free {l : Loop} (f : Frame) (h : l.frame = none) :
    l.offer f = { l with ready := true, pending := some f } := by simp [offer, h]
theorem Loop.offer_of_unconsumed {l : Loop} (f : Frame) (h : l.frame ≠ none) : l.offer f = l := by
  obtain ⟨g, hg⟩ := Option.ne_none_iff_exists'.1 h
  simp [offer, hg]

/-- When the engine waits (R724). -/
theorem Loop.waits_iff (l : Loop) :
    l.waits = true ↔ l.core.cfg.delivery = .noSkip ∧ (l.ready = true ∨ l.frame ≠ none) := by
  cases h : l.core.cfg.delivery <;> simp [waits, h, Option.isSome_iff_ne_none]

theorem Loop.waits_eq_false {l : Loop}
    (h : l.core.cfg.delivery = .skipFrames ∨ (l.ready = false ∧ l.frame = none)) : l.waits = false := by
  rw [← Bool.not_eq_true, waits_iff]
  rintro ⟨hd, hw⟩
  rcases h with h | ⟨hr, hf⟩
  · simp [h] at hd
  · simp [hr, hf] at hw

/-- A loop that nothing has ended takes its turn. -/
theorem Loop.iterate_eq_turn {l : Loop} (he : l.ended = none) (hk : l.keysOpen = true) (hf : l.framesOpen = true)
    (ha : l.audioWorks = true) : l.iterate = l.turn := by simp [iterate, he, hk, hf, ha]

/-- What a turn does to the handshake: nothing, or it sends the payload that waits, or it raises the signal of
a new one, which is the frame of the core it leaves. -/
theorem Loop.iterate_handshake (l : Loop) :
    (l.iterate.pending = l.pending ∧ l.iterate.frame = l.frame)
    ∨ (∃ f, l.pending = some f ∧ l.waits = false ∧ l.iterate.pending = none ∧ l.iterate.frame = some f)
    ∨ (l.pending = none ∧ l.frame = none ∧ l.iterate.frame = none ∧ l.iterate.ready = true
        ∧ l.iterate.pending = some l.iterate.core.toFrame) := by
  unfold iterate
  split
  · exact .inl ⟨rfl, rfl⟩
  split
  · exact .inl ⟨rfl, rfl⟩
  split
  · exact .inl ⟨rfl, rfl⟩
  unfold turn
  by_cases hw : l.waits = true
  · simp [hw]
  cases hp : l.pending with
  | some f => simp [hw]
  | none =>
    cases hs : step l.core with
    | fault k => simp [hw]
    | refused r => simp [hw, hp]
    | next t =>
      cases hh : t.halted with
      | some r => simp [hw, afterTick, hh, hp]
      | none => cases hv : t.wantsFrame <;> cases hf : l.frame <;> simp [hw, afterTick, hh, deliver, hv, offer, hf, hp]

end Sys2Proof.Machine
end

