-- ==== Sys2Proof/Laws/Operands.lean ====
section
/-! SUPPORT. Register ranges and the loads through them. -/

namespace Sys2Proof.Machine

theorem length_regRange (x y : Reg) : (regRange x y).length = rangeLength x y := by simp [regRange]

theorem rangeLength_le (x y : Reg) : rangeLength x y ≤ 16 := by
  have := x.isLt; have := y.isLt
  unfold rangeLength; split <;> omega

theorem rangeLength_pos (x y : Reg) : 0 < rangeLength x y := by unfold rangeLength; omega

/-- The number of a range's register, inside the range. -/
theorem val_rangeReg (x y : Reg) {k : Nat} (hk : k < rangeLength x y) :
    (rangeReg x y k).val = if x ≤ y then x.val + k else x.val - k := by
  have := x.isLt; have := y.isLt
  unfold rangeLength at hk
  unfold rangeReg
  by_cases h : x ≤ y
  · have h' : x.val ≤ y.val := h
    rw [if_pos h] at hk ⊢
    simp only [Fin.ofNat, h, if_true]; omega
  · have h' : ¬ x.val ≤ y.val := h
    rw [if_neg h] at hk ⊢
    simp only [Fin.ofNat, h, if_false]; omega

theorem rangeReg_injective (x y : Reg) {j k : Nat} (hj : j < rangeLength x y) (hk : k < rangeLength x y)
    (h : rangeReg x y j = rangeReg x y k) : j = k := by
  have h' := congrArg Fin.val h
  rw [val_rangeReg x y hj, val_rangeReg x y hk] at h'
  have := x.isLt; have := y.isLt
  unfold rangeLength at hj hk
  by_cases hle : x ≤ y
  · simp only [hle, if_true] at h' hj hk; omega
  · simp only [hle, if_false] at h' hj hk; omega

/-- No register stands twice in a range. -/
theorem nodup_regRange (x y : Reg) : (regRange x y).Nodup := by
  unfold regRange
  refine List.Nodup.map_on (fun j hj k hk h => ?_) List.nodup_range
  exact rangeReg_injective x y (List.mem_range.1 hj) (List.mem_range.1 hk) h

/-- A register outside the list keeps its value. -/
theorem State.reg_setRegs_not_mem (xs : List Reg) : ∀ (s : State) (bs : List Byte) (r : Reg), r ∉ xs →
    (s.setRegs xs bs).reg r = s.reg r := by
  induction xs with
  | nil => intro s bs r _; cases bs <;> rfl
  | cons x xs ih =>
    intro s bs r hr
    simp only [List.mem_cons, not_or] at hr
    cases bs with
    | nil => rfl
    | cons b bs => rw [State.setRegs, ih _ _ _ hr.2, State.reg_setV, if_neg hr.1]

/-- Register number k of a list without repeats takes byte number k. -/
theorem State.reg_setRegs_getElem (xs : List Reg) : ∀ (s : State) (bs : List Byte) (k : Nat) (hk : k < xs.length),
    xs.Nodup → k < bs.length → (s.setRegs xs bs).reg xs[k] = bs.getD k 0 := by
  induction xs with
  | nil => intro s bs k hk; simp at hk
  | cons x xs ih =>
    intro s bs k hk hn hb
    cases bs with
    | nil => simp at hb
    | cons b bs =>
      cases k with
      | zero =>
        have hx : x ∉ xs := (List.nodup_cons.1 hn).1
        simp [State.setRegs, State.reg_setRegs_not_mem xs _ bs x hx]
      | succ k =>
        simp only [List.length_cons] at hk hb
        have := ih (s.setV x b) bs k (by omega) (List.nodup_cons.1 hn).2 (by omega)
        simpa [State.setRegs] using this

/-- A load of a range: register number k of it takes byte number k. -/
theorem State.reg_setRegs_range (s : State) (x y : Reg) (bs : List Byte) {k : Nat} (hk : k < rangeLength x y)
    (hb : k < bs.length) : (s.setRegs (regRange x y) bs).reg (rangeReg x y k) = bs.getD k 0 := by
  have hl : k < (regRange x y).length := by rw [length_regRange]; exact hk
  have := State.reg_setRegs_getElem (regRange x y) s bs k hl (nodup_regRange x y) hb
  simpa [regRange] using this

/-- A load of a range leaves every other register. -/
theorem State.reg_setRegs_range_other (s : State) (x y r : Reg) (bs : List Byte)
    (h : ∀ k, k < rangeLength x y → rangeReg x y k ≠ r) : (s.setRegs (regRange x y) bs).reg r = s.reg r := by
  refine State.reg_setRegs_not_mem _ s bs r fun hr => ?_
  obtain ⟨k, hk, e⟩ := List.mem_map.1 hr
  exact h k (List.mem_range.1 hk) e

/-- The bytes of a stored range, in the order of the range. -/
theorem State.getD_regs_range (s : State) (x y : Reg) {k : Nat} (hk : k < rangeLength x y) :
    (s.regs (regRange x y)).getD k 0 = s.reg (rangeReg x y k) := by
  simp [State.regs, regRange, hk]

@[simp] theorem State.length_regs (s : State) (xs : List Reg) : (s.regs xs).length = xs.length := by
  simp [State.regs]

/-- V0..VX as a range. -/
theorem rangeLength_zero (x : Reg) : rangeLength 0 x = x.val + 1 := by
  have h : (0 : Reg) ≤ x := Fin.zero_le x
  simp [rangeLength]

theorem rangeReg_zero (x : Reg) {k : Nat} (hk : k ≤ x.val) : (rangeReg 0 x k).val = k := by
  rw [val_rangeReg 0 x (by rw [rangeLength_zero]; omega)]; simp

/-- Where I stands after `stepI`. -/
theorem State.stepI_i (s : State) (n : Nat) :
    (s.stepI n).i = if s.cfg.loadStoreIncrementsI then BitVec.ofNat 16 (s.base + n) else s.i := by
  unfold State.stepI; split <;> rfl

/-! ### The place of a plane in `act` (R507) -/

/-- The j-th active plane has j active planes before it. -/
theorem State.actIndex_of_getElem? {s : State} {j p : Nat} (h : s.act[j]? = some p) : s.actIndex p = j := by
  have hp : p ∈ s.act := List.mem_of_getElem? h
  have h8 : p < 8 := by
    simp only [State.act, List.mem_filter, List.mem_range] at hp
    exact hp.1
  have e : s.act = (List.range p).filter s.isActive ++
      p :: ((List.range (8 - (p + 1))).map (· + (p + 1))).filter s.isActive := by
    have : List.range 8 = List.range p ++ p :: (List.range (8 - (p + 1))).map (· + (p + 1)) := by
      have : p = 0 ∨ p = 1 ∨ p = 2 ∨ p = 3 ∨ p = 4 ∨ p = 5 ∨ p = 6 ∨ p = 7 := by omega
      rcases this with rfl | rfl | rfl | rfl | rfl | rfl | rfl | rfl <;> decide
    rw [State.act, this, List.filter_append, List.filter_cons, (s.mem_act p).1 hp]
    simp
  have hn : s.act.Nodup := List.Nodup.filter _ List.nodup_range
  have hi : s.act[s.actIndex p]? = some p := by
    rw [e, State.actIndex, List.getElem?_append_right (le_refl _)]
    simp
  have hl : s.actIndex p < s.act.length := by
    by_contra hh
    rw [List.getElem?_eq_none (by omega)] at hi
    cases hi
  exact (List.getElem?_inj hl hn).1 (hi.trans h.symm)

end Sys2Proof.Machine
end

