-- ==== Sys2Proof/Laws/PerInstr.lean ====
section
/-! SUPPORT. Statements made for every instruction, one lemma per constructor. -/

namespace Sys2Proof.Laws.RowMatch

/-- The opcode word of a well-formed instruction matches, by the row's mask, the row of R116 that has the
instruction's mnemonic (R115, R124). -/
def Statement (i : Instr) : Prop :=
  i.wf = true → ∃ r ∈ opcodeRows, r.mnemonic = i.mnemonic ∧ r.accepts (opcodeOf i) = true

/-- A word built from nibbles matches a row whose mask and pattern are compared nibble by nibble. -/
theorem of_nibbles {i : Instr} (r : OpcodeRow) {g x y n mg mx my mn : Nat} (hr : r ∈ opcodeRows)
    (hm : r.mnemonic = i.mnemonic) (hi : opcodeOf i = ofNibbles g x y n)
    (hb : g < 16 ∧ x < 16 ∧ y < 16 ∧ n < 16) (hmask : r.mask = ofNibbles mg mx my mn)
    (hmb : mg < 16 ∧ mx < 16 ∧ my < 16 ∧ mn < 16)
    (hp : ofNibbles (g &&& mg) (x &&& mx) (y &&& my) (n &&& mn) = r.pattern) :
    ∃ r ∈ opcodeRows, r.mnemonic = i.mnemonic ∧ r.accepts (opcodeOf i) = true := by
  refine ⟨r, hr, hm, ?_⟩
  rw [OpcodeRow.accepts, hi, hmask, ofNibbles_and hb.1 hb.2.1 hb.2.2.1 hb.2.2.2 hmb.1 hmb.2.1 hmb.2.2.1
    hmb.2.2.2, hp]
  exact beq_self_eq_true _

theorem nibble_div {a k : Nat} (h : a ≤ 255) (hk : k = a / 16) : k < 16 := by omega

theorem nibble_div256 {a k : Nat} (h : a ≤ 0xFFF) (hk : k = a / 256) : k < 16 := by omega

theorem scd (n : Nat) : Statement (.scd n) := fun h =>
  of_nibbles (mg := 15) (mx := 15) (my := 15) (mn := 0) ⟨"SCD_N", 0xFFF0, 0x00C0⟩ (by decide) rfl rfl
    ⟨by omega, by omega, by omega, Nat.lt_succ_of_le (of_decide_eq_true h)⟩ (by decide) (by decide) (by simp only [Nat.and_zero]; rfl)

theorem scu (n : Nat) : Statement (.scu n) := fun h =>
  of_nibbles (mg := 15) (mx := 15) (my := 15) (mn := 0) ⟨"SCU_N", 0xFFF0, 0x00D0⟩ (by decide) rfl rfl
    ⟨by omega, by omega, by omega, Nat.lt_succ_of_le (of_decide_eq_true h)⟩ (by decide) (by decide) (by simp only [Nat.and_zero]; rfl)

theorem cls : Statement .cls := fun _ =>
  ⟨⟨"CLS", 0xFFFF, 0x00E0⟩, by decide, rfl, by decide⟩

theorem ret : Statement .ret := fun _ =>
  ⟨⟨"RET", 0xFFFF, 0x00EE⟩, by decide, rfl, by decide⟩

theorem scr : Statement .scr := fun _ =>
  ⟨⟨"SCR", 0xFFFF, 0x00FB⟩, by decide, rfl, by decide⟩

theorem scl : Statement .scl := fun _ =>
  ⟨⟨"SCL", 0xFFFF, 0x00FC⟩, by decide, rfl, by decide⟩

theorem low : Statement .low := fun _ =>
  ⟨⟨"LOW", 0xFFFF, 0x00FE⟩, by decide, rfl, by decide⟩

theorem high : Statement .high := fun _ =>
  ⟨⟨"HIGH", 0xFFFF, 0x00FF⟩, by decide, rfl, by decide⟩

theorem jp (nnn : Nat) : Statement (.jp nnn) := fun h =>
  of_nibbles (mg := 15) (mx := 0) (my := 0) (mn := 0) ⟨"JP_NNN", 0xF000, 0x1000⟩ (by decide) rfl rfl
    ⟨by omega, nibble_div256 (of_decide_eq_true h) rfl, Nat.mod_lt _ (by omega), Nat.mod_lt _ (by omega)⟩ (by decide) (by decide) (by simp only [Nat.and_zero]; rfl)

theorem call (nnn : Nat) : Statement (.call nnn) := fun h =>
  of_nibbles (mg := 15) (mx := 0) (my := 0) (mn := 0) ⟨"CALL_NNN", 0xF000, 0x2000⟩ (by decide) rfl rfl
    ⟨by omega, nibble_div256 (of_decide_eq_true h) rfl, Nat.mod_lt _ (by omega), Nat.mod_lt _ (by omega)⟩ (by decide) (by decide) (by simp only [Nat.and_zero]; rfl)

theorem seImm (x : Reg) (nn : Nat) : Statement (.seImm x nn) := fun h =>
  of_nibbles (mg := 15) (mx := 0) (my := 0) (mn := 0) ⟨"SE_VX__NN", 0xF000, 0x3000⟩ (by decide) rfl rfl
    ⟨by omega, x.isLt, nibble_div (of_decide_eq_true h) rfl, Nat.mod_lt _ (by omega)⟩ (by decide) (by decide) (by simp only [Nat.and_zero]; rfl)

theorem sneImm (x : Reg) (nn : Nat) : Statement (.sneImm x nn) := fun h =>
  of_nibbles (mg := 15) (mx := 0) (my := 0) (mn := 0) ⟨"SNE_VX__NN", 0xF000, 0x4000⟩ (by decide) rfl rfl
    ⟨by omega, x.isLt, nibble_div (of_decide_eq_true h) rfl, Nat.mod_lt _ (by omega)⟩ (by decide) (by decide) (by simp only [Nat.and_zero]; rfl)

theorem seReg (x y : Reg) : Statement (.seReg x y) := fun _ =>
  of_nibbles (mg := 15) (mx := 0) (my := 0) (mn := 15) ⟨"SE_VX__VY", 0xF00F, 0x5000⟩ (by decide) rfl rfl
    ⟨by omega, x.isLt, y.isLt, by omega⟩ (by decide) (by decide) (by simp only [Nat.and_zero]; rfl)

theorem stRange (x y : Reg) : Statement (.stRange x y) := fun _ =>
  of_nibbles (mg := 15) (mx := 0) (my := 0) (mn := 15) ⟨"LD__I___VX-VY", 0xF00F, 0x5002⟩ (by decide) rfl rfl
    ⟨by omega, x.isLt, y.isLt, by omega⟩ (by decide) (by decide) (by simp only [Nat.and_zero]; rfl)

theorem ldRange (x y : Reg) : Statement (.ldRange x y) := fun _ =>
  of_nibbles (mg := 15) (mx := 0) (my := 0) (mn := 15) ⟨"LD_VX-VY___I", 0xF00F, 0x5003⟩ (by decide) rfl rfl
    ⟨by omega, x.isLt, y.isLt, by omega⟩ (by decide) (by decide) (by simp only [Nat.and_zero]; rfl)

theorem ldImm (x : Reg) (nn : Nat) : Statement (.ldImm x nn) := fun h =>
  of_nibbles (mg := 15) (mx := 0) (my := 0) (mn := 0) ⟨"LD_VX__NN", 0xF000, 0x6000⟩ (by decide) rfl rfl
    ⟨by omega, x.isLt, nibble_div (of_decide_eq_true h) rfl, Nat.mod_lt _ (by omega)⟩ (by decide) (by decide) (by simp only [Nat.and_zero]; rfl)

theorem addImm (x : Reg) (nn : Nat) : Statement (.addImm x nn) := fun h =>
  of_nibbles (mg := 15) (mx := 0) (my := 0) (mn := 0) ⟨"ADD_VX__NN", 0xF000, 0x7000⟩ (by decide) rfl rfl
    ⟨by omega, x.isLt, nibble_div (of_decide_eq_true h) rfl, Nat.mod_lt _ (by omega)⟩ (by decide) (by decide) (by simp only [Nat.and_zero]; rfl)

theorem ldReg (x y : Reg) : Statement (.ldReg x y) := fun _ =>
  of_nibbles (mg := 15) (mx := 0) (my := 0) (mn := 15) ⟨"LD_VX__VY", 0xF00F, 0x8000⟩ (by decide) rfl rfl
    ⟨by omega, x.isLt, y.isLt, by omega⟩ (by decide) (by decide) (by simp only [Nat.and_zero]; rfl)

theorem orReg (x y : Reg) : Statement (.orReg x y) := fun _ =>
  of_nibbles (mg := 15) (mx := 0) (my := 0) (mn := 15) ⟨"OR_VX__VY", 0xF00F, 0x8001⟩ (by decide) rfl rfl
    ⟨by omega, x.isLt, y.isLt, by omega⟩ (by decide) (by decide) (by simp only [Nat.and_zero]; rfl)

theorem andReg (x y : Reg) : Statement (.andReg x y) := fun _ =>
  of_nibbles (mg := 15) (mx := 0) (my := 0) (mn := 15) ⟨"AND_VX__VY", 0xF00F, 0x8002⟩ (by decide) rfl rfl
    ⟨by omega, x.isLt, y.isLt, by omega⟩ (by decide) (by decide) (by simp only [Nat.and_zero]; rfl)

theorem xorReg (x y : Reg) : Statement (.xorReg x y) := fun _ =>
  of_nibbles (mg := 15) (mx := 0) (my := 0) (mn := 15) ⟨"XOR_VX__VY", 0xF00F, 0x8003⟩ (by decide) rfl rfl
    ⟨by omega, x.isLt, y.isLt, by omega⟩ (by decide) (by decide) (by simp only [Nat.and_zero]; rfl)

theorem addReg (x y : Reg) : Statement (.addReg x y) := fun _ =>
  of_nibbles (mg := 15) (mx := 0) (my := 0) (mn := 15) ⟨"ADD_VX__VY", 0xF00F, 0x8004⟩ (by decide) rfl rfl
    ⟨by omega, x.isLt, y.isLt, by omega⟩ (by decide) (by decide) (by simp only [Nat.and_zero]; rfl)

theorem subReg (x y : Reg) : Statement (.subReg x y) := fun _ =>
  of_nibbles (mg := 15) (mx := 0) (my := 0) (mn := 15) ⟨"SUB_VX__VY", 0xF00F, 0x8005⟩ (by decide) rfl rfl
    ⟨by omega, x.isLt, y.isLt, by omega⟩ (by decide) (by decide) (by simp only [Nat.and_zero]; rfl)

theorem shr (x y : Reg) : Statement (.shr x y) := fun _ =>
  of_nibbles (mg := 15) (mx := 0) (my := 0) (mn := 15) ⟨"SHR_VX__VY", 0xF00F, 0x8006⟩ (by decide) rfl rfl
    ⟨by omega, x.isLt, y.isLt, by omega⟩ (by decide) (by decide) (by simp only [Nat.and_zero]; rfl)

theorem subn (x y : Reg) : Statement (.subn x y) := fun _ =>
  of_nibbles (mg := 15) (mx := 0) (my := 0) (mn := 15) ⟨"SUBN_VX__VY", 0xF00F, 0x8007⟩ (by decide) rfl rfl
    ⟨by omega, x.isLt, y.isLt, by omega⟩ (by decide) (by decide) (by simp only [Nat.and_zero]; rfl)

theorem shl (x y : Reg) : Statement (.shl x y) := fun _ =>
  of_nibbles (mg := 15) (mx := 0) (my := 0) (mn := 15) ⟨"SHL_VX__VY", 0xF00F, 0x800E⟩ (by decide) rfl rfl
    ⟨by omega, x.isLt, y.isLt, by omega⟩ (by decide) (by decide) (by simp only [Nat.and_zero]; rfl)

theorem sneReg (x y : Reg) : Statement (.sneReg x y) := fun _ =>
  of_nibbles (mg := 15) (mx := 0) (my := 0) (mn := 15) ⟨"SNE_VX__VY", 0xF00F, 0x9000⟩ (by decide) rfl rfl
    ⟨by omega, x.isLt, y.isLt, by omega⟩ (by decide) (by decide) (by simp only [Nat.and_zero]; rfl)

theorem ldI (nnn : Nat) : Statement (.ldI nnn) := fun h =>
  of_nibbles (mg := 15) (mx := 0) (my := 0) (mn := 0) ⟨"LD_I__NNN", 0xF000, 0xA000⟩ (by decide) rfl rfl
    ⟨by omega, nibble_div256 (of_decide_eq_true h) rfl, Nat.mod_lt _ (by omega), Nat.mod_lt _ (by omega)⟩ (by decide) (by decide) (by simp only [Nat.and_zero]; rfl)

theorem jpV0 (nnn : Nat) : Statement (.jpV0 nnn) := fun h =>
  of_nibbles (mg := 15) (mx := 0) (my := 0) (mn := 0) ⟨"JP_V0__NNN", 0xF000, 0xB000⟩ (by decide) rfl rfl
    ⟨by omega, nibble_div256 (of_decide_eq_true h) rfl, Nat.mod_lt _ (by omega), Nat.mod_lt _ (by omega)⟩ (by decide) (by decide) (by simp only [Nat.and_zero]; rfl)

theorem rnd (x : Reg) (nn : Nat) : Statement (.rnd x nn) := fun h =>
  of_nibbles (mg := 15) (mx := 0) (my := 0) (mn := 0) ⟨"RND_VX__NN", 0xF000, 0xC000⟩ (by decide) rfl rfl
    ⟨by omega, x.isLt, nibble_div (of_decide_eq_true h) rfl, Nat.mod_lt _ (by omega)⟩ (by decide) (by decide) (by simp only [Nat.and_zero]; rfl)

theorem drw (x y : Reg) (n : Nat) : Statement (.drw x y n) := fun h =>
  of_nibbles (mg := 15) (mx := 0) (my := 0) (mn := 0) ⟨"DRW_VX__VY__N", 0xF000, 0xD000⟩ (by decide) rfl rfl
    ⟨by omega, x.isLt, y.isLt, Nat.lt_succ_of_le (of_decide_eq_true h)⟩ (by decide) (by decide) (by simp only [Nat.and_zero]; rfl)

theorem skp (x : Reg) : Statement (.skp x) := fun _ =>
  of_nibbles (mg := 15) (mx := 0) (my := 15) (mn := 15) ⟨"SKP_VX", 0xF0FF, 0xE09E⟩ (by decide) rfl rfl
    ⟨by omega, x.isLt, by omega, by omega⟩ (by decide) (by decide) (by simp only [Nat.and_zero]; rfl)

theorem sknp (x : Reg) : Statement (.sknp x) := fun _ =>
  of_nibbles (mg := 15) (mx := 0) (my := 15) (mn := 15) ⟨"SKNP_VX", 0xF0FF, 0xE0A1⟩ (by decide) rfl rfl
    ⟨by omega, x.isLt, by omega, by omega⟩ (by decide) (by decide) (by simp only [Nat.and_zero]; rfl)

theorem ldILong (nnnn : Nat) : Statement (.ldILong nnnn) := fun _ =>
  ⟨⟨"LD_I__NNNN", 0xFFFF, 0xF000⟩, by decide, rfl, by rw [opcodeOf]; decide⟩

theorem plane (mask : Nat) : Statement (.plane mask) := fun h =>
  of_nibbles (mg := 15) (mx := 0) (my := 15) (mn := 15) ⟨"PLANE_X", 0xF0FF, 0xF001⟩ (by decide) rfl rfl
    ⟨by omega, Nat.lt_succ_of_le (of_decide_eq_true h), by omega, by omega⟩ (by decide) (by decide) (by simp only [Nat.and_zero]; rfl)

theorem audio : Statement .audio := fun _ =>
  ⟨⟨"AUDIO", 0xFFFF, 0xF002⟩, by decide, rfl, by decide⟩

theorem ldVxDt (x : Reg) : Statement (.ldVxDt x) := fun _ =>
  of_nibbles (mg := 15) (mx := 0) (my := 15) (mn := 15) ⟨"LD_VX__DT", 0xF0FF, 0xF007⟩ (by decide) rfl rfl
    ⟨by omega, x.isLt, by omega, by omega⟩ (by decide) (by decide) (by simp only [Nat.and_zero]; rfl)

theorem ldVxK (x : Reg) : Statement (.ldVxK x) := fun _ =>
  of_nibbles (mg := 15) (mx := 0) (my := 15) (mn := 15) ⟨"LD_VX__K", 0xF0FF, 0xF00A⟩ (by decide) rfl rfl
    ⟨by omega, x.isLt, by omega, by omega⟩ (by decide) (by decide) (by simp only [Nat.and_zero]; rfl)

theorem ldDtVx (x : Reg) : Statement (.ldDtVx x) := fun _ =>
  of_nibbles (mg := 15) (mx := 0) (my := 15) (mn := 15) ⟨"LD_DT__VX", 0xF0FF, 0xF015⟩ (by decide) rfl rfl
    ⟨by omega, x.isLt, by omega, by omega⟩ (by decide) (by decide) (by simp only [Nat.and_zero]; rfl)

theorem ldStVx (x : Reg) : Statement (.ldStVx x) := fun _ =>
  of_nibbles (mg := 15) (mx := 0) (my := 15) (mn := 15) ⟨"LD_ST__VX", 0xF0FF, 0xF018⟩ (by decide) rfl rfl
    ⟨by omega, x.isLt, by omega, by omega⟩ (by decide) (by decide) (by simp only [Nat.and_zero]; rfl)

theorem addI (x : Reg) : Statement (.addI x) := fun _ =>
  of_nibbles (mg := 15) (mx := 0) (my := 15) (mn := 15) ⟨"ADD_I__VX", 0xF0FF, 0xF01E⟩ (by decide) rfl rfl
    ⟨by omega, x.isLt, by omega, by omega⟩ (by decide) (by decide) (by simp only [Nat.and_zero]; rfl)

theorem ldF (x : Reg) : Statement (.ldF x) := fun _ =>
  of_nibbles (mg := 15) (mx := 0) (my := 15) (mn := 15) ⟨"LD_F__VX", 0xF0FF, 0xF029⟩ (by decide) rfl rfl
    ⟨by omega, x.isLt, by omega, by omega⟩ (by decide) (by decide) (by simp only [Nat.and_zero]; rfl)

theorem ldHf (x : Reg) : Statement (.ldHf x) := fun _ =>
  of_nibbles (mg := 15) (mx := 0) (my := 15) (mn := 15) ⟨"LD_HF__VX", 0xF0FF, 0xF030⟩ (by decide) rfl rfl
    ⟨by omega, x.isLt, by omega, by omega⟩ (by decide) (by decide) (by simp only [Nat.and_zero]; rfl)

theorem ldB (x : Reg) : Statement (.ldB x) := fun _ =>
  of_nibbles (mg := 15) (mx := 0) (my := 15) (mn := 15) ⟨"LD_B__VX", 0xF0FF, 0xF033⟩ (by decide) rfl rfl
    ⟨by omega, x.isLt, by omega, by omega⟩ (by decide) (by decide) (by simp only [Nat.and_zero]; rfl)

theorem stRegs (x : Reg) : Statement (.stRegs x) := fun _ =>
  of_nibbles (mg := 15) (mx := 0) (my := 15) (mn := 15) ⟨"LD__I___VX", 0xF0FF, 0xF055⟩ (by decide) rfl rfl
    ⟨by omega, x.isLt, by omega, by omega⟩ (by decide) (by decide) (by simp only [Nat.and_zero]; rfl)

theorem ldRegs (x : Reg) : Statement (.ldRegs x) := fun _ =>
  of_nibbles (mg := 15) (mx := 0) (my := 15) (mn := 15) ⟨"LD_VX___I", 0xF0FF, 0xF065⟩ (by decide) rfl rfl
    ⟨by omega, x.isLt, by omega, by omega⟩ (by decide) (by decide) (by simp only [Nat.and_zero]; rfl)

end Sys2Proof.Laws.RowMatch
end

