-- ==== Sys2Proof/Laws/Timer.lean ====
section
/-! SUPPORT. The timer register: what reading and setting give. -/

namespace Sys2Proof.Machine

variable (tr : TimerRegister) (b : Byte) (t : Seconds)

@[simp] theorem TimerRegister.set_startInstant : (tr.set b t).startInstant = tr.startInstant := rfl
@[simp] theorem TimerRegister.set_lastSetInstant : (tr.set b t).lastSetInstant = t := rfl
@[simp] theorem TimerRegister.set_lastSetValue : (tr.set b t).lastSetValue = b := rfl
@[simp] theorem TimerRegister.set_tickFrequencyHz : (tr.set b t).tickFrequencyHz = tr.tickFrequencyHz := rfl
@[simp] theorem TimerRegister.set_speedMultiplier : (tr.set b t).speedMultiplier = tr.speedMultiplier := rfl
@[simp] theorem TimerRegister.set_rate : (tr.set b t).rate = tr.rate := rfl

/-- No step has elapsed at the instant of the set. -/
theorem TimerRegister.steps_set_same : (tr.set b t).steps t = 0 := by
  have h : Rat.floor 0 = 0 := by decide
  simp [TimerRegister.steps, h]

/-- The steps are the floor of the elapsed time at the timer's rate. -/
theorem TimerRegister.steps_eq : tr.steps t = ((t - tr.lastSetInstant) * tr.rate).floor := by
  rw [TimerRegister.steps, TimerRegister.rate, ← Rat.mul_assoc]

/-- While the steps lie in 0..last_set_value, the reading is the difference and nothing wraps. -/
theorem TimerRegister.toNat_get (h : 0 ≤ tr.steps t) :
    ((tr.get t).toNat : Int) = max 0 ((tr.lastSetValue.toNat : Int) - tr.steps t) := by
  have := tr.lastSetValue.isLt
  simp only [TimerRegister.get, BitVec.toNat_ofNat]
  omega

end Sys2Proof.Machine
end

