-- ==== Sys2Proof/Tests/Slice0.lean ====
section
/-! SUPPORT. The model's own tests: the checks of WellFormed, decoding of words written out from the table of
R116, one or two single ticks per instruction with the results of 95_test_vectors.md (each names its vector),
and a witness for the hypotheses of every statement. -/

namespace Sys2Proof.Tests

set_option Elab.async false

open Sys2Proof Sys2Proof.Machine

/-! ### Helpers -/

/-- The reset state with its inputs fixed: `now` = 0, rand8 = 0xA7, no push. -/
def boot : State := { State.reset with inputs := [⟨0, 0xA7, none⟩] }

/-- A 4096-byte machine with one plane. -/
def smallConfig : Config := { defaultConfig with memSize := 4096, numPlanes := 1 }

/-- The next tick's clock sample. -/
def at' (s : State) (now : Seconds) : State := { s with inputs := [⟨now, 0xA7, none⟩] }

/-- A state with the given parameters. -/
def with' (s : State) (c : Config) : State := { s with cfg := c }

/-- Keys pressed. -/
def pressed (ks : List Nat) : Keys := Vector.ofFn fun k : Fin 16 => decide (k.val ∈ ks)

/-- A pixel set in a plane. -/
def dot (s : State) (p x y : Nat) : State :=
  s.setPlanes (s.planes.mapIdx fun q b => if q = p then flipPixel x y b else b)

/-- Bytes placed at an address. -/
def poke (s : State) (a : Nat) (bs : List Byte) : State := s.writeBytes a bs

/-- A stack with its entry 0 and its depth. -/
def stacked (s : State) (top : Word) (sp : Byte) : State := { s with stack := s.stack.set 0 top, sp := sp }

/-- The outcome is a next state that meets `f`. -/
def after (o : Host.Outcome State Fault Refusal) (f : State → Bool) : Bool :=
  match o with
  | .next t => f t
  | .fault _ => false
  | .refused _ => false

/-- One tick from `s` with `bs` placed at PC. -/
def tick (s : State) (bs : List Byte) : Host.Outcome State Fault Refusal := step (s.writeBytes s.pc.toNat bs)

/-- The pixels set in a plane, row by row. -/
def lit (s : State) (p : Nat) : List (Nat × Nat) :=
  (List.range (height s.mode)).flatMap fun y =>
    ((List.range (width s.mode)).filter fun x => s.planePixel p x y).map fun x => (x, y)

theorem next_of {o : Host.Outcome State Fault Refusal} {f : State → Bool} (h : after o f = true) :
    ∃ t, o = .next t ∧ f t = true := by
  cases o with
  | next t => exact ⟨t, rfl, h⟩
  | fault k => cases h
  | refused r => cases h


/-! ### WellFormed (R124): each check refuses a term one above its bound -/

/-- N above 15, and DRW with N written as 16. -/
theorem test_wf_refuses_n :
    (Instr.scd 16).wf = false ∧ (Instr.scu 16).wf = false ∧ (Instr.drw 0 1 16).wf = false := by decide

theorem test_wf_refuses_plane_mask :
    (Instr.plane 16).wf = false ∧ (Instr.plane 15).wf = true := by decide

/-- NN above 255. -/
theorem test_wf_refuses_nn :
    (Instr.seImm 0 256).wf = false ∧ (Instr.sneImm 0 256).wf = false ∧ (Instr.ldImm 0 256).wf = false
    ∧ (Instr.addImm 0 256).wf = false ∧ (Instr.rnd 0 256).wf = false := by decide

/-- NNN above 0xFFF. -/
theorem test_wf_refuses_nnn :
    (Instr.jp 0x1000).wf = false ∧ (Instr.call 0x1000).wf = false ∧ (Instr.ldI 0x1000).wf = false
    ∧ (Instr.jpV0 0x1000).wf = false := by decide

/-- NNNN above 0xFFFF. -/
theorem test_wf_refuses_nnnn :
    (Instr.ldILong 0x10000).wf = false ∧ (Instr.ldILong 0xFFFF).wf = true := by decide

/-- The parameter check: fonts that overlap, a memory size of R8's range that is not 4096 or 65536, a zero
multiplier and an IPF cap without the FPS cap are refused. -/
theorem test_config_wf :
    smallConfig.wf = true ∧ ({ defaultConfig with fontBigBase := 0x04F } : Config).wf = false
    ∧ ({ defaultConfig with memSize := 8192 } : Config).wf = false ∧ ({ defaultConfig with speedMult := 0 } : Config).wf = false
    ∧ ({ defaultConfig with ipfCap := some 1 } : Config).wf = false := by decide +kernel


/-! ### Decoding: a word written out from R116 for every constructor -/

theorem test_decode_group_0 :
    decode [0x00, 0xC5] = .instr (.scd 5) []
    ∧ decode [0x00, 0xDF] = .instr (.scu 15) []
    ∧ decode [0x00, 0xE0] = .instr (.cls) []
    ∧ decode [0x00, 0xEE] = .instr (.ret) []
    ∧ decode [0x00, 0xFB] = .instr (.scr) []
    ∧ decode [0x00, 0xFC] = .instr (.scl) []
    ∧ decode [0x00, 0xFE] = .instr (.low) []
    ∧ decode [0x00, 0xFF] = .instr (.high) [] := by decide

theorem test_decode_jumps_and_skips :
    decode [0x1A, 0xBC] = .instr (.jp 0xABC) []
    ∧ decode [0x2A, 0xBC] = .instr (.call 0xABC) []
    ∧ decode [0x3A, 0xBC] = .instr (.seImm 0xA 0xBC) []
    ∧ decode [0x4A, 0xBC] = .instr (.sneImm 0xA 0xBC) []
    ∧ decode [0x5A, 0xB0] = .instr (.seReg 0xA 0xB) []
    ∧ decode [0x9A, 0xB0] = .instr (.sneReg 0xA 0xB) []
    ∧ decode [0xBA, 0xBC] = .instr (.jpV0 0xABC) []
    ∧ decode [0xEA, 0x9E] = .instr (.skp 0xA) []
    ∧ decode [0xEA, 0xA1] = .instr (.sknp 0xA) [] := by decide

theorem test_decode_alu :
    decode [0x6A, 0xBC] = .instr (.ldImm 0xA 0xBC) []
    ∧ decode [0x7A, 0xBC] = .instr (.addImm 0xA 0xBC) []
    ∧ decode [0x8A, 0xB0] = .instr (.ldReg 0xA 0xB) []
    ∧ decode [0x8A, 0xB1] = .instr (.orReg 0xA 0xB) []
    ∧ decode [0x8A, 0xB2] = .instr (.andReg 0xA 0xB) []
    ∧ decode [0x8A, 0xB3] = .instr (.xorReg 0xA 0xB) []
    ∧ decode [0x8A, 0xB4] = .instr (.addReg 0xA 0xB) []
    ∧ decode [0x8A, 0xB5] = .instr (.subReg 0xA 0xB) []
    ∧ decode [0x8A, 0xB6] = .instr (.shr 0xA 0xB) []
    ∧ decode [0x8A, 0xB7] = .instr (.subn 0xA 0xB) []
    ∧ decode [0x8A, 0xBE] = .instr (.shl 0xA 0xB) []
    ∧ decode [0xCA, 0xBC] = .instr (.rnd 0xA 0xBC) [] := by decide

theorem test_decode_memory :
    decode [0x5A, 0xB2] = .instr (.stRange 0xA 0xB) []
    ∧ decode [0x5A, 0xB3] = .instr (.ldRange 0xA 0xB) []
    ∧ decode [0xAA, 0xBC] = .instr (.ldI 0xABC) []
    ∧ decode [0xFA, 0x1E] = .instr (.addI 0xA) []
    ∧ decode [0xFA, 0x29] = .instr (.ldF 0xA) []
    ∧ decode [0xFA, 0x30] = .instr (.ldHf 0xA) []
    ∧ decode [0xFA, 0x33] = .instr (.ldB 0xA) []
    ∧ decode [0xFA, 0x55] = .instr (.stRegs 0xA) []
    ∧ decode [0xFA, 0x65] = .instr (.ldRegs 0xA) [] := by decide

theorem test_decode_display_and_devices :
    decode [0xDA, 0xBC] = .instr (.drw 0xA 0xB 0xC) []
    ∧ decode [0xFA, 0x01] = .instr (.plane 0xA) []
    ∧ decode [0xF0, 0x02] = .instr (.audio) []
    ∧ decode [0xFA, 0x07] = .instr (.ldVxDt 0xA) []
    ∧ decode [0xFA, 0x0A] = .instr (.ldVxK 0xA) []
    ∧ decode [0xFA, 0x15] = .instr (.ldDtVx 0xA) []
    ∧ decode [0xFA, 0x18] = .instr (.ldStVx 0xA) [] := by decide

/-- The one 4-byte instruction, its second word being data (R110, R119), and what is too short. -/
theorem test_decode_long_load :
    decode [0xF0, 0x00, 0xAB, 0xCD, 0x12] = .instr (.ldILong 0xABCD) [0x12]
    ∧ decode [0xF0, 0x00, 0xF0] = .noSecondWord ∧ decode [0x12] = .noWord := by decide

/-- Illegal words (R118, V-A29, V-M30, V-D27, V-T21, V-E2 to V-E5). -/
theorem test_decode_illegal :
    decode [0x01, 0x23] = .illegal 0x0123
    ∧ decode [0x00, 0xFD] = .illegal 0x00FD
    ∧ decode [0x00, 0xE1] = .illegal 0x00E1
    ∧ decode [0x01, 0xE0] = .illegal 0x01E0
    ∧ decode [0x51, 0x21] = .illegal 0x5121
    ∧ decode [0x81, 0x28] = .illegal 0x8128
    ∧ decode [0x91, 0x21] = .illegal 0x9121
    ∧ decode [0xE1, 0xA0] = .illegal 0xE1A0
    ∧ decode [0xF1, 0x00] = .illegal 0xF100
    ∧ decode [0xF1, 0x02] = .illegal 0xF102
    ∧ decode [0xF1, 0x3A] = .illegal 0xF13A
    ∧ decode [0xF1, 0x75] = .illegal 0xF175
    ∧ decode [0xF1, 0x85] = .illegal 0xF185 := by decide

/-- The host's view: bit 0 is the least significant bit of the first word. -/
theorem test_decodeTableWord :
    decodeTableWord 16 0x8AB4 = some (.addReg 0xA 0xB) ∧ decodeTableWord 32 0x1234F000 = some (.ldILong 0x1234)
    ∧ decodeTableWord 16 0x00FD = none := by decide

theorem test_encode :
    encodeBytes (.ldILong 0x1234) = [0xF0, 0x00, 0x12, 0x34] ∧ encodeBytes (.drw 1 2 5) = [0xD1, 0x25]
    ∧ encodeBytes (.skp 7) = [0xE7, 0x9E] := by decide


/-! ### Control transfer -/

/-- V-C3: an odd target is legal. -/
theorem test_jp_odd :
    after (tick boot [0x12, 0x01]) (fun t => t.result == some .executed && t.pc == 0x201) = true := by decide +kernel

/-- V-C4. -/
theorem test_call :
    after (tick boot [0x23, 0x00]) (fun t => t.stack[0] == 0x200 && t.sp == 1 && t.result == some .executed && t.pc == 0x300) = true := by decide +kernel

/-- V-C5: the stack is full. -/
theorem test_call_full :
    after (tick (stacked boot 0 16) [0x23, 0x00]) (fun t => t.sp == 16 && t.halted == some ⟨.stackOverflow, 0x2300, 0x200⟩ && t.pc == 0x200) = true := by decide +kernel

/-- V-C7. -/
theorem test_ret :
    after (tick (stacked (boot.setPc 0x300) 0x0FFE 1) [0x00, 0xEE]) (fun t => t.sp == 0 && t.result == some .executed && t.pc == 0x1000) = true := by decide +kernel

/-- V-C8: the pop is discarded. -/
theorem test_ret_pc_overflow :
    after (tick (stacked (boot.setPc 0x300) 0xFFFE 1) [0x00, 0xEE]) (fun t => t.sp == 1 && t.halted == some ⟨.pcOverflow, 0x00EE, 0x300⟩ && t.pc == 0x300) = true := by decide +kernel

/-- W11: the register nibble is not read. -/
theorem test_jpV0_always_v0 :
    after (tick ((boot.setV 0 1).setV 2 0x50) [0xB2, 0x10]) (fun t => t.result == some .executed && t.pc == 0x211) = true := by decide +kernel

/-- V-C10. -/
theorem test_jpV0_no_wrap :
    after (tick (boot.setV 0 0xFF) [0xBF, 0xFF]) (fun t => t.result == some .executed && t.pc == 0x10FE) = true := by decide +kernel

/-- V-C14: the F000 is skipped whole and not executed. -/
theorem test_seImm_over_long :
    after (tick (boot.setV 3 0x42) [0x33, 0x42, 0xF0, 0x00, 0x12, 0x34]) (fun t => t.i == 0 && t.result == some .executed && t.pc == 0x206) = true := by decide +kernel

/-- V-C23: the look-ahead of a taken skip at the top of memory. -/
theorem test_seImm_edge :
    after (tick (boot.setPc 0xFFFE) [0x30, 0x00]) (fun t => t.halted == some ⟨(.memFault 0x10000), 0x3000, 0xFFFE⟩ && t.pc == 0xFFFE) = true := by decide +kernel

/-- V-C16. -/
theorem test_sneImm :
    after (tick (boot.setV 3 0x42) [0x43, 0x41, 0x60, 0x00]) (fun t => t.result == some .executed && t.pc == 0x204) = true := by decide +kernel

/-- V-C18: X = Y always skips. -/
theorem test_seReg_self :
    after (tick (boot.setV 1 9) [0x51, 0x10]) (fun t => t.result == some .executed && t.pc == 0x204) = true := by decide +kernel

/-- V-C20: X = Y never skips. -/
theorem test_sneReg_self :
    after (tick (boot.setV 1 9) [0x91, 0x10]) (fun t => t.result == some .executed && t.pc == 0x202) = true := by decide +kernel

/-- V-C19. -/
theorem test_sneReg :
    after (tick ((boot.setV 1 1).setV 2 2) [0x91, 0x20]) (fun t => t.result == some .executed && t.pc == 0x204) = true := by decide +kernel


/-! ### Loads, arithmetic, logic, shifts and random -/

/-- V-A2. -/
theorem test_ldImm :
    after (tick boot [0x6F, 0x01]) (fun t => t.reg 15 == 1 && t.result == some .executed && t.pc == 0x202) = true := by decide +kernel

/-- V-A3. -/
theorem test_addImm_no_carry :
    after (tick ((boot.setV 0 0xFF).setV 15 0x55) [0x70, 0x01]) (fun t => t.reg 0 == 0 && t.reg 15 == 0x55) = true := by decide +kernel

/-- V-A5. -/
theorem test_ldReg :
    after (tick (boot.setV 2 0x33) [0x81, 0x20]) (fun t => t.reg 1 == 0x33 && t.reg 2 == 0x33) = true := by decide +kernel

/-- V-A6. -/
theorem test_or :
    after (tick (((boot.setV 1 0x0F).setV 2 0xF0).setV 15 7) [0x81, 0x21]) (fun t => t.reg 1 == 0xFF && t.reg 15 == 7) = true := by decide +kernel

/-- V-A7. -/
theorem test_or_vf_reset :
    after (tick (with' (((boot.setV 1 0x0F).setV 2 0xF0).setV 15 7) { defaultConfig with logicVfReset := true }) [0x81, 0x21]) (fun t => t.reg 1 == 0xFF && t.reg 15 == 0) = true := by decide +kernel

/-- V-A8. -/
theorem test_and :
    after (tick ((boot.setV 1 0x3C).setV 2 0x0F) [0x81, 0x22]) (fun t => t.reg 1 == 0x0C) = true := by decide +kernel

/-- V-A9. -/
theorem test_xor :
    after (tick ((boot.setV 1 0xFF).setV 2 0x0F) [0x81, 0x23]) (fun t => t.reg 1 == 0xF0) = true := by decide +kernel

/-- W2. -/
theorem test_add_carry :
    after (tick ((boot.setV 1 0xFF).setV 2 1) [0x81, 0x24]) (fun t => t.reg 1 == 0 && t.reg 15 == 1) = true := by decide +kernel

/-- V-A11: the flag is written last. -/
theorem test_add_into_vf :
    after (tick ((boot.setV 15 0xFF).setV 1 1) [0x8F, 0x14]) (fun t => t.reg 15 == 1) = true := by decide +kernel

/-- W3. -/
theorem test_sub_borrow :
    after (tick ((boot.setV 1 5).setV 2 7) [0x81, 0x25]) (fun t => t.reg 1 == 0xFE && t.reg 15 == 0) = true := by decide +kernel

/-- V-A15. -/
theorem test_sub_equal :
    after (tick (boot.setV 1 0x5A) [0x81, 0x15]) (fun t => t.reg 1 == 0 && t.reg 15 == 1) = true := by decide +kernel

/-- V-A16: V[Y] is shifted, V[X]'s old value is ignored. -/
theorem test_shr :
    after (tick ((boot.setV 1 0xAA).setV 2 5) [0x81, 0x26]) (fun t => t.reg 1 == 2 && t.reg 2 == 5 && t.reg 15 == 1) = true := by decide +kernel

/-- V-A20. -/
theorem test_subn :
    after (tick ((boot.setV 1 7).setV 2 5) [0x81, 0x27]) (fun t => t.reg 1 == 0xFE && t.reg 15 == 0) = true := by decide +kernel

/-- V-A23. -/
theorem test_shl :
    after (tick (boot.setV 2 0x81) [0x81, 0x2E]) (fun t => t.reg 1 == 2 && t.reg 15 == 1) = true := by decide +kernel

/-- V-A25: it shifts the old flag value. -/
theorem test_shl_of_vf :
    after (tick (boot.setV 15 0x80) [0x81, 0xFE]) (fun t => t.reg 1 == 0 && t.reg 15 == 1) = true := by decide +kernel

/-- V-A26. -/
theorem test_rnd :
    after (tick boot [0xC3, 0x0F]) (fun t => t.reg 3 == 7) = true := by decide +kernel


/-! ### Index register, loads and stores -/

/-- V-M1. -/
theorem test_ldI :
    after (tick boot [0xA2, 0xF0]) (fun t => t.i == 0x2F0 && t.result == some .executed && t.pc == 0x202) = true := by decide +kernel

/-- V-M3: the second word is data. -/
theorem test_ldILong :
    after (tick boot [0xF0, 0x00, 0xF0, 0x00]) (fun t => t.i == 0xF000 && t.result == some .executed && t.pc == 0x204) = true := by decide +kernel

/-- V-M5: the write of I is discarded. -/
theorem test_ldILong_pc_overflow :
    after (tick (boot.setPc 0xFFFC) [0xF0, 0x00, 0x00, 0x10]) (fun t => t.i == 0 && t.halted == some ⟨.pcOverflow, 0xF000, 0xFFFC⟩ && t.pc == 0xFFFC) = true := by decide +kernel

/-- V-M7. -/
theorem test_addI_wraps :
    after (tick ((boot.setV 1 1).setI 0xFFFF) [0xF1, 0x1E]) (fun t => t.i == 0 && t.reg 15 == 0) = true := by decide +kernel

/-- V-M10. -/
theorem test_ldF_low_nibble :
    after (tick (boot.setV 4 0x1A) [0xF4, 0x29]) (fun t => t.i == 0x032) = true := by decide +kernel

/-- V-M12. -/
theorem test_ldHf :
    after (tick (boot.setV 4 0x0F) [0xF4, 0x30]) (fun t => t.i == 0x0E6) = true := by decide +kernel

/-- V-M13. -/
theorem test_ldB :
    after (tick ((boot.setV 0 156).setI 0x300) [0xF0, 0x33]) (fun t => t.readBytes 0x300 3 == [1, 5, 6] && t.i == 0x300) = true := by decide +kernel

/-- V-M16: nothing is written. -/
theorem test_ldB_edge :
    after (tick ((boot.setV 0 7).setI 0xFFFE) [0xF0, 0x33]) (fun t => t.readBytes 0xFFFE 2 == [0, 0] && t.halted == some ⟨(.memFault 0x10000), 0xF033, 0x200⟩ && t.pc == 0x200) = true := by decide +kernel

/-- V-M17. -/
theorem test_stRegs :
    after (tick ((((boot.setV 0 1).setV 1 2).setV 2 3).setI 0x300) [0xF2, 0x55]) (fun t => t.readBytes 0x300 4 == [1, 2, 3, 0] && t.i == 0x303) = true := by decide +kernel

/-- V-M18. -/
theorem test_stRegs_keeps_i :
    after (tick (with' ((((boot.setV 0 1).setV 1 2).setV 2 3).setI 0x300) { defaultConfig with loadStoreIncrementsI := false }) [0xF2, 0x55]) (fun t => t.readBytes 0x300 3 == [1, 2, 3] && t.i == 0x300) = true := by decide +kernel

/-- V-M21. -/
theorem test_ldRegs :
    after (tick (poke (boot.setI 0x300) 0x300 [1, 5, 6, 9]) [0xF2, 0x65]) (fun t => t.reg 0 == 1 && t.reg 1 == 5 && t.reg 2 == 6 && t.reg 3 == 0 && t.i == 0x303) = true := by decide +kernel

/-- V-M23. -/
theorem test_ldRegs_all :
    after (tick (poke (boot.setI 0x300) 0x300 ((List.range 16).map fun k => BitVec.ofNat 8 (0x10 + k))) [0xFF, 0x65]) (fun t => t.reg 0 == 0x10 && t.reg 15 == 0x1F && t.i == 0x310) = true := by decide +kernel

/-- V-M25: VX first. -/
theorem test_stRange_down :
    after (tick ((((boot.setV 2 0xAA).setV 3 0xBB).setV 4 0xCC).setI 0x400) [0x54, 0x22]) (fun t => t.readBytes 0x400 3 == [0xCC, 0xBB, 0xAA] && t.i == 0x400) = true := by decide +kernel

/-- V-M26. -/
theorem test_stRange_one :
    after (tick ((boot.setV 3 0x77).setI 0x400) [0x53, 0x32]) (fun t => t.readBytes 0x400 2 == [0x77, 0]) = true := by decide +kernel

/-- V-M28. -/
theorem test_ldRange_down :
    after (tick (poke (boot.setI 0x400) 0x400 [0xAA, 0xBB, 0xCC]) [0x54, 0x23]) (fun t => t.reg 4 == 0xAA && t.reg 3 == 0xBB && t.reg 2 == 0xCC && t.i == 0x400) = true := by decide +kernel

/-- V-M29. -/
theorem test_ldRange_into_vf :
    after (tick (poke (boot.setI 0x400) 0x400 [0x11, 0x22]) [0x5E, 0xF3]) (fun t => t.reg 14 == 0x11 && t.reg 15 == 0x22) = true := by decide +kernel


/-! ### Display -/

/-- V-D1. -/
theorem test_cls :
    after (tick (dot (dot boot 0 3 3) 1 4 4) [0x00, 0xE0]) (fun t => lit t 0 == [] && lit t 1 == [(4, 4)] && t.updated && t.updates == 1) = true := by decide +kernel

/-- V-D3. -/
theorem test_drw_wraps :
    after (tick (poke (((boot.setV 0 62).setV 1 31).setI 0x300) 0x300 [0xF0, 0xF0]) [0xD0, 0x12]) (fun t => lit t 0 == [(0, 0), (1, 0), (62, 0), (63, 0), (0, 31), (1, 31), (62, 31), (63, 31)] && t.reg 15 == 0) = true := by decide +kernel

/-- V-D11: plane 1 takes the second block and collides. -/
theorem test_drw_two_planes :
    after (tick (dot ((poke (boot.setI 0x300) 0x300 [0x80, 0x80]).setActivePlanes 3) 1 0 0) [0xD0, 0x11]) (fun t => lit t 0 == [(0, 0)] && lit t 1 == [] && t.reg 15 == 1) = true := by decide +kernel

/-- V-D7: frame index 1 at (0, 0) and 2 at (1, 0). -/
theorem test_frame :
    after (tick ((poke (boot.setI 0x300) 0x300 [0x80, 0x40]).setActivePlanes 3) [0xD0, 0x11])
      (fun t => t.toFrame.width == 64 && t.toFrame.pixels.take 3 == [1, 2, 0] && t.toFrame.pixels.length == 2048) = true := by decide +kernel

/-- V-D14. -/
theorem test_scd :
    after (tick (dot boot 0 5 10) [0x00, 0xC3]) (fun t => lit t 0 == [(5, 13)] && t.updates == 1) = true := by decide +kernel

/-- V-D15: no pixel changes, the display counts as updated. -/
theorem test_scd_zero :
    after (tick (dot boot 0 5 10) [0x00, 0xC0]) (fun t => lit t 0 == [(5, 10)] && t.updated) = true := by decide +kernel

/-- V-D16. -/
theorem test_scu :
    after (tick (dot boot 0 5 10) [0x00, 0xDF]) (fun t => lit t 0 == []) = true := by decide +kernel

/-- V-D17 and V-D18: no wrap. -/
theorem test_scr :
    after (tick (dot (dot boot 0 10 0) 0 62 0) [0x00, 0xFB]) (fun t => lit t 0 == [(14, 0)]) = true := by decide +kernel

/-- V-D19 and W5: a pixel in the first four columns is lost. -/
theorem test_scl :
    after (tick (dot (dot boot 0 10 0) 0 1 0) [0x00, 0xFC]) (fun t => lit t 0 == [(6, 0)]) = true := by decide +kernel

/-- V-D22. -/
theorem test_low :
    after (tick (dot (boot.setMode .hires) 0 100 40) [0x00, 0xFE]) (fun t => t.mode == .lores && t.planes == [blank .lores, blank .lores] && t.updated) = true := by decide +kernel

/-- W7. -/
theorem test_high :
    after (tick (dot (dot (boot.setActivePlanes 3) 0 3 3) 1 4 4) [0x00, 0xFF]) (fun t => t.mode == .hires && t.planes == [blank .hires, blank .hires] && t.activePlanes == 3 && t.updates == 1) = true := by decide +kernel

/-- V-D25: bits 3:2 are dropped. -/
theorem test_plane :
    after (tick boot [0xFF, 0x01]) (fun t => t.activePlanes == 3 && !t.updated) = true := by decide +kernel

/-- The row-wise drawing against the loop of R509 on a wrapping sprite. -/
theorem test_loop_of_R509 :
    let b := flipPixel 63 31 (flipPixel 2 0 (blank .lores))
    writeSpriteLoop .lores [0xC3, 0xFF] false 62 31 b
      = (drawn .lores [0xC3, 0xFF] false 62 31 b, collides .lores [0xC3, 0xFF] false 62 31 b) := by decide +kernel


/-! ### Timers, keypad and audio -/

/-- V-T1. -/
theorem test_ldDtVx :
    after (tick (at' (boot.setV 1 120) 3) [0xF1, 0x15]) (fun t => t.dt == ⟨0, 3, 120, 60, 1⟩) = true := by decide +kernel

/-- V-T2. -/
theorem test_ldVxDt :
    after (tick (at' { boot with dt := ⟨0, 3, 120, 60, 1⟩ } 4) [0xF2, 0x07]) (fun t => t.reg 2 == 60) = true := by decide +kernel

/-- V-T3. -/
theorem test_ldVxDt_expired :
    after (tick (at' { boot with dt := ⟨0, 3, 120, 60, 1⟩ } 5) [0xF2, 0x07]) (fun t => t.reg 2 == 0) = true := by decide +kernel

/-- V-T6. -/
theorem test_ldStVx :
    after (tick (at' (boot.setV 2 30) 2) [0xF2, 0x18]) (fun t => t.st == ⟨0, 2, 30, 60, 1⟩ && t.events == [⟨Vector.replicate 16 0x55, 1 / 2⟩]) = true := by decide +kernel

/-- V-T7: no event. -/
theorem test_ldStVx_zero :
    after (tick boot [0xF2, 0x18]) (fun t => t.st.lastSetValue == 0 && t.events == []) = true := by decide +kernel

/-- V-T10. -/
theorem test_audio :
    after (tick (poke (boot.setI 0x300) 0x300 (List.replicate 16 0xFF)) [0xF0, 0x02]) (fun t => t.pattern == Vector.replicate 16 0xFF && t.i == 0x300 && t.events == []) = true := by decide +kernel

/-- V-T11. -/
theorem test_audio_edge :
    after (tick (boot.setI 0xFFF1) [0xF0, 0x02]) (fun t => t.pattern == Vector.replicate 16 0x55 && t.halted == some ⟨(.memFault 0x10000), 0xF002, 0x200⟩ && t.pc == 0x200) = true := by decide +kernel

/-- V-T12. -/
theorem test_skp :
    after (tick { (boot.setV 1 5) with keys := pressed [5] } [0xE1, 0x9E]) (fun t => t.result == some .executed && t.pc == 0x204) = true := by decide +kernel

/-- V-T15. -/
theorem test_skp_key_16 :
    after (tick (boot.setV 1 0x10) [0xE1, 0x9E]) (fun t => t.halted == some ⟨(.keyIndexFault 0x10), 0xE19E, 0x200⟩ && t.pc == 0x200) = true := by decide +kernel

/-- V-T14. -/
theorem test_sknp :
    after (tick (boot.setV 1 5) [0xE1, 0xA1]) (fun t => t.result == some .executed && t.pc == 0x204) = true := by decide +kernel

/-- V-T18. -/
theorem test_ldVxK_lowest :
    after (tick { boot with keys := pressed [3, 9] } [0xF3, 0x0A]) (fun t => t.reg 3 == 3 && t.prevKeys == pressed [3, 9] && t.result == some .executed && t.pc == 0x202) = true := by decide +kernel

/-- V-T20: the snapshot is taken all the same. -/
theorem test_ldVxK_blocks :
    after (tick { boot with prevKeys := pressed [4] } [0xF3, 0x0A]) (fun t => t.result == some .blocked && t.pc == 0x200 && t.prevKeys == pressed []) = true := by decide +kernel

/-- W6. -/
theorem test_timeRemaining :
    (⟨0, 0, 60, 60, 1⟩ : TimerRegister).timeRemaining (1 / 60) = some (59 / 60)
    ∧ (⟨0, 0, 60, 60, 1⟩ : TimerRegister).timeRemaining 1 = none := by decide +kernel


/-! ### Faults, reset and the host interface -/

/-- V-C26, V-E6. -/
theorem test_halted_again :
    (match step { boot with halted := some ⟨.memFault 0xFFFF, 0, 0xFFFF⟩ } with
      | .fault k => k == .memFault 0xFFFF
      | .next _ => false
      | .refused _ => false) = true := by decide +kernel

/-- V-C25. -/
theorem test_fetch_edge :
    after (step (boot.setPc 0xFFFF)) (fun t => t.halted == some ⟨.memFault 0x10000, 0, 0xFFFF⟩) = true := by decide +kernel

/-- V-E1. -/
theorem test_empty_program :
    after (step boot) (fun t => t.halted == some ⟨.decodeError, 0, 0x200⟩ && t.pc == 0x200) = true := by decide +kernel

/-- V-E10. -/
theorem test_reset_memory :
    State.reset.readBytes 0 5 = [0xF0, 0x90, 0x90, 0x90, 0xF0]
    ∧ State.reset.readBytes 0x50 10 = [0xFF, 0xFF, 0xC3, 0xC3, 0xC3, 0xC3, 0xC3, 0xC3, 0xFF, 0xFF]
    ∧ State.reset.readBytes 0xF0 3 = [0, 0, 0] := by decide +kernel

/-- V-E9. -/
theorem test_load_too_long :
    ((State.resetWith smallConfig 0).load (List.replicate 3585 0)).isNone = true := by decide +kernel

/-- R722: the older snapshot stays and the tick drains it. -/
theorem test_mailbox :
    after (tick (({ boot with inputs := [⟨0, 0, some (pressed [2])⟩] }).pushKeys (pressed [9])) [0xF3, 0x0A])
      (fun t => t.reg 3 == 9 && t.mailbox == none) = true := by decide +kernel

/-- D32: a 2-entry override. -/
theorem test_palette2 :
    (boot.setPalette2 7 8).palette = #v[7, 8, 2, 3] := by decide +kernel

theorem test_withFetchWord :
    after (step (State.reset.withFetchWord 32 0x1234F000)) (fun t => t.i == 0x1234 && t.pc == 0x204) = true := by decide +kernel

/-! ## Witnesses

For every statement with hypotheses, concrete states and operands that meet them; a clause of `Advances`,
`Accesses` or `SkipsIf` is met on each side of its boundary. -/

/-- The boundary of `advance(2)` and `advance(4)`: the last PC that completes and the first that does not. -/
theorem witness_Advances :
    (boot.setPc 0xFFFD).pc.toNat + 2 ≤ 0xFFFF ∧ 0xFFFF < (boot.setPc 0xFFFE).pc.toNat + 2
    ∧ (boot.setPc 0xFFFB).pc.toNat + 4 ≤ 0xFFFF ∧ 0xFFFF < (boot.setPc 0xFFFC).pc.toNat + 4 := by decide

/-- The boundary of an access of 1, 3, 16 and n bytes at I. -/
theorem witness_Accesses :
    (boot.setI 0xFFFF).i.toNat + 1 ≤ boot.cfg.memSize
    ∧ (boot.setI 0xFFFD).i.toNat + 3 ≤ boot.cfg.memSize ∧ boot.cfg.memSize < (boot.setI 0xFFFE).i.toNat + 3
    ∧ (boot.setI 0xFFF0).i.toNat + 16 ≤ boot.cfg.memSize ∧ boot.cfg.memSize < (boot.setI 0xFFF1).i.toNat + 16
    ∧ (with' boot smallConfig).cfg.memSize < ((with' boot smallConfig).setI 0x1000).i.toNat + 1 := by decide +kernel

/-- The boundaries of a skip: before a 2-byte word and before 0xF000, and a look-ahead out of memory. -/
theorem witness_SkipsIf :
    (poke boot 0x202 [0x60, 0x00]).word16 (boot.pc.toNat + 2) ≠ 0xF000
    ∧ (poke boot 0x202 [0xF0, 0x00]).word16 (boot.pc.toNat + 2) = 0xF000
    ∧ (boot.setPc 0xFFFC).pc.toNat + 3 < boot.cfg.memSize
    ∧ boot.cfg.memSize ≤ (boot.setPc 0xFFFD).pc.toNat + 3 := by decide +kernel


/-! ### Encoding and the step -/

theorem witness_DecodeOfEncodeIsTheInstruction :
    (Instr.ldILong 0xFFFF).wf = true ∧ (Instr.drw 15 0 15).wf = true ∧ (Instr.jp 0xFFF).wf = true
    ∧ (Instr.rnd 15 255).wf = true ∧ (Instr.plane 15).wf = true ∧ Instr.cls.wf = true := by decide

theorem witness_EncodeOfDecodeGivesTheBytesBack :
    decode [0xF0, 0x00, 0x12, 0x34, 0x99] = .instr (.ldILong 0x1234) [0x99] ∧ decode [0x8A, 0xB4] = .instr (.addReg 10 11) [] := by decide

theorem witness_EveryWordMatchesAtMostOneRowOrIsIllegal :
    (⟨"PLANE_X", 0xF0FF, 0xF001⟩ : OpcodeRow) ∈ opcodeRows ∧ (0xF301 : Word) &&& 0xF0FF = 0xF001
    ∧ decodeWord 0xF301 = some (.plane 3)
    ∧ (boot.setPc 0xFFFE).halted = none ∧ (boot.setPc 0xFFFE).pc.toNat + 1 < boot.cfg.memSize
    ∧ ∀ r ∈ opcodeRows, (boot.setPc 0xFFFE).word16 0xFFFE &&& r.mask ≠ r.pattern := by decide +kernel

/-- The last word that lies in memory too, and a clock sample below the last. -/
theorem witness_StepRunsTheDecodedInstruction :
    let s := poke boot 0x200 [0xA2, 0xF0]
    let long := poke (boot.setPc 0xFFFC) 0xFFFC [0xF0, 0x00, 0x12, 0x34]
    s.halted = none ∧ decode s.fetchBytes = .instr (.ldI 0x2F0) [0, 0] ∧ s.pc.toNat + 1 < s.cfg.memSize
    ∧ s.word16 s.pc.toNat ≠ 0xF000 ∧ decodeWord (s.word16 s.pc.toNat) = some (.ldI 0x2F0)
    ∧ long.halted = none ∧ long.pc.toNat + 3 < long.cfg.memSize ∧ long.word16 long.pc.toNat = 0xF000
    ∧ s.now ≤ s.nextInput.now ∧ (at' { s with now := 2 } 1).nextInput.now < ({ s with now := 2 } : State).now
    ∧ s.inputs = [⟨0, 0xA7, none⟩] ∧ State.reset.inputs = [] := by decide +kernel

theorem witness_HaltedCoreAnswersItsFaultForEver :
    ({ boot with halted := some ⟨.pcOverflow, 0x3000, 0xFFFC⟩ } : State).halted = some ⟨.pcOverflow, 0x3000, 0xFFFC⟩ := rfl

theorem witness_FetchReadsTwoBytesOrFaults :
    boot.halted = none ∧ (boot.setPc 0xFFFE).pc.toNat + 1 < boot.cfg.memSize
    ∧ boot.cfg.memSize ≤ (boot.setPc 0xFFFF).pc.toNat + 1
    ∧ (with' boot smallConfig).cfg.memSize ≤ ((with' boot smallConfig).setPc 0x10FE).pc.toNat + 1 := by decide +kernel

theorem witness_LongLoadWithoutItsSecondWordFaults :
    let s := poke (boot.setPc 0xFFFD) 0xFFFD [0xF0, 0x00]
    s.halted = none ∧ s.pc.toNat + 1 < s.cfg.memSize ∧ s.word16 s.pc.toNat = 0xF000 ∧ s.cfg.memSize ≤ s.pc.toNat + 3 := by decide +kernel

theorem witness_StepAnswersNextUnlessHalted :
    boot.halted = none ∧ ({ boot with halted := some ⟨.decodeError, 0, 0x200⟩ } : State).halted ≠ none := by decide

/-- A tick that executes, one that blocks and one that faults. -/
theorem witness_FaultsArePreciseAndStopTheCore :
    (∃ t, step (poke boot 0x200 [0x60, 0x05]) = .next t ∧ (t.result == some .executed) = true)
    ∧ (∃ t, step (poke boot 0x200 [0xF3, 0x0A]) = .next t ∧ (t.result == some .blocked) = true)
    ∧ (∃ t, step boot = .next t ∧ (t.result == some (.fault .decodeError)) = true) :=
  ⟨next_of (f := fun t => t.result == some .executed) (by decide +kernel),
    next_of (f := fun t => t.result == some .blocked) (by decide +kernel),
    next_of (f := fun t => t.result == some (.fault .decodeError)) (by decide +kernel)⟩

/-- Each fault an instruction can raise. -/
theorem witness_EachFaultComesFromItsInstructions :
    (boot.sp.toNat ≤ 16 ∧ ∃ t, exec .audio (boot.setI 0xFFF1) = .next t
      ∧ (t.result == some (.fault (.memFault 0x10000))) = true)
    ∧ ((stacked boot 0 16).sp.toNat ≤ 16 ∧ ∃ t, exec (.call 0x300) (stacked boot 0 16) = .next t
      ∧ (t.result == some (.fault .stackOverflow)) = true)
    ∧ (∃ t, exec .ret boot = .next t ∧ (t.result == some (.fault .stackUnderflow)) = true)
    ∧ (∃ t, exec (.skp 1) (boot.setV 1 16) = .next t ∧ (t.result == some (.fault (.keyIndexFault 16))) = true)
    ∧ (∃ t, exec .cls (boot.setPc 0xFFFE) = .next t ∧ (t.result == some (.fault .pcOverflow)) = true) :=
  ⟨⟨by decide, next_of (f := fun t => t.result == some (.fault (.memFault 0x10000))) (by decide +kernel)⟩,
    ⟨by decide, next_of (f := fun t => t.result == some (.fault .stackOverflow)) (by decide +kernel)⟩,
    next_of (f := fun t => t.result == some (.fault .stackUnderflow)) (by decide +kernel),
    next_of (f := fun t => t.result == some (.fault (.keyIndexFault 16))) (by decide +kernel),
    next_of (f := fun t => t.result == some (.fault .pcOverflow)) (by decide +kernel)⟩

/-- A state with a program and a stored byte that meets the invariant. -/
theorem boot_inv : (poke boot 0x200 [0xF0, 0x33]).Inv where
  cfg := by decide +kernel
  mem := by decide +kernel
  sp := by decide
  planeCount := by decide
  planeDims := by decide +kernel
  mask := by decide
  dtRate := by decide +kernel
  stRate := by decide +kernel
  dtPast := by decide +kernel
  stPast := by decide +kernel

theorem witness_StepKeepsTheInvariant :
    (poke boot 0x200 [0xF0, 0x33]).Inv
    ∧ ∃ t, step (poke boot 0x200 [0xF0, 0x33]) = .next t ∧ (t.result == some .executed) = true :=
  ⟨boot_inv, next_of (f := fun t => t.result == some .executed) (by decide +kernel)⟩

theorem witness_ResetMeetsTheInvariant :
    smallConfig.wf = true := by decide +kernel

theorem witness_ClockIsMonotoneAndTheHostsFieldsStay :
    ∃ t, step (at' (poke boot 0x200 [0x00, 0xE0]) 3) = .next t ∧ (t.now == 3) = true :=
  next_of (f := fun t => t.now == 3) (by decide +kernel)

theorem witness_OnlyStoresWriteMemory :
    (∃ t, exec (.drw 0 1 5) (boot) = .next t ∧ ((!(Instr.drw 0 1 5).mnemonic ∈ ["LD_B__VX", "LD__I___VX", "LD__I___VX-VY"]) && t.updates == 1) = true) :=
  next_of (f := fun t => (!(Instr.drw 0 1 5).mnemonic ∈ ["LD_B__VX", "LD__I___VX", "LD__I___VX-VY"]) && t.updates == 1) (by decide +kernel)

/-- An instruction that changes each piece. -/
theorem witness_EachPieceOfStateHasItsWriters :
    (∃ t, exec (.ldI 5) (boot) = .next t ∧ (t.i != boot.i) = true)
    ∧ (∃ t, exec (.stRegs 3) (boot.setI 0x300) = .next t ∧ (boot.cfg.loadStoreIncrementsI && t.i != 0x300) = true)
    ∧ (∃ t, exec (.call 5) (boot) = .next t ∧ (t.stack != boot.stack && t.sp != boot.sp) = true)
    ∧ (∃ t, exec (.high) (boot) = .next t ∧ (t.mode != boot.mode && t.planes != boot.planes) = true)
    ∧ (∃ t, exec (.plane 2) (boot) = .next t ∧ (t.activePlanes != boot.activePlanes) = true)
    ∧ (∃ t, exec (.ldVxK 1) ({ boot with keys := pressed [15] }) = .next t ∧ (t.prevKeys != boot.prevKeys) = true)
    ∧ (∃ t, exec (.audio) (boot) = .next t ∧ (t.pattern != boot.pattern) = true)
    ∧ (∃ t, exec (.ldDtVx 1) (boot.setV 1 9) = .next t ∧ (t.dt != boot.dt) = true)
    ∧ (∃ t, exec (.ldStVx 1) (boot.setV 1 9) = .next t ∧ (t.st != boot.st && t.events != boot.events) = true) :=
  ⟨next_of (f := fun t => t.i != boot.i) (by decide +kernel),
    next_of (f := fun t => boot.cfg.loadStoreIncrementsI && t.i != 0x300) (by decide +kernel),
    next_of (f := fun t => t.stack != boot.stack && t.sp != boot.sp) (by decide +kernel),
    next_of (f := fun t => t.mode != boot.mode && t.planes != boot.planes) (by decide +kernel),
    next_of (f := fun t => t.activePlanes != boot.activePlanes) (by decide +kernel),
    next_of (f := fun t => t.prevKeys != boot.prevKeys) (by decide +kernel),
    next_of (f := fun t => t.pattern != boot.pattern) (by decide +kernel),
    next_of (f := fun t => t.dt != boot.dt) (by decide +kernel),
    next_of (f := fun t => t.st != boot.st && t.events != boot.events) (by decide +kernel)⟩

theorem witness_UpdatesCountTheDisplayInstructions :
    (∃ t, exec (.scd 0) (boot) = .next t ∧ (t.result == some .executed && t.updated) = true)
    ∧ (∃ t, exec (.plane 1) (boot) = .next t ∧ (t.result == some .executed && !t.updated) = true) :=
  ⟨next_of (f := fun t => t.result == some .executed && t.updated) (by decide +kernel),
    next_of (f := fun t => t.result == some .executed && !t.updated) (by decide +kernel)⟩


/-! ### Control transfer -/

theorem witness_JumpsSetPc :
    (0xFFF : Nat) ≤ 0xFFF ∧ ((boot.setV 0 0xFF).reg 0).toNat = 255 := by decide +kernel

theorem witness_CallPushesItsOwnAddress :
    (0xFFF : Nat) ≤ 0xFFF ∧ (stacked boot 0 15).sp.toNat < 16 ∧ (stacked boot 0 16).sp.toNat = 16 := by decide

theorem witness_ReturnResumesAfterTheCall :
    boot.sp = 0 ∧ (stacked boot 0xFFFD 1).sp.toNat = (0 : Fin 16).val + 1
    ∧ (stacked boot 0 16).sp.toNat = (15 : Fin 16).val + 1
    ∧ (stacked boot 0xFFFD 1).stack[(0 : Fin 16)].toNat + 2 ≤ 0xFFFF
    ∧ 0xFFFF < (stacked boot 0xFFFE 1).stack[(0 : Fin 16)].toNat + 2 := by decide +kernel

theorem witness_CallThenReturnComesBackTwoFurther :
    (stacked (boot.setPc 0xFFFD) 0 15).sp.toNat < 16 ∧ (stacked (boot.setPc 0xFFFD) 0 15).pc.toNat + 2 ≤ 0xFFFF := by decide

/-- With `witness_SkipsIf`: the skip taken and not taken. -/
theorem witness_RegisterSkipsJumpOneWholeInstruction :
    (255 : Nat) ≤ 255 ∧ ((boot.setV 15 255).reg 15).toNat = 255 ∧ (boot.reg 15).toNat ≠ 255
    ∧ boot.reg 1 = boot.reg 2 ∧ (boot.setV 1 5).reg 1 ≠ (boot.setV 1 5).reg 2 := by decide +kernel


/-! ### Loads, arithmetic, logic, shifts and random (with `witness_Advances`) -/

theorem witness_RegisterLoadsAndAddImmediate :
    (255 : Nat) ≤ 255 := by decide

/-- VF is reset, and VF is an ordinary destination. -/
theorem witness_LogicInstructionsCombineBitwise :
    (with' boot { defaultConfig with logicVfReset := true }).cfg.logicVfReset = true
    ∧ ¬ (boot.cfg.logicVfReset = true ∧ (15 : Reg) = 15) ∧ (2 : Reg) ≠ 1 := by decide +kernel

theorem witness_AddSetsVfOnCarry :
    255 < ((boot.setV 1 255).reg 1).toNat + (((boot.setV 1 255).setV 2 1).reg 2).toNat
    ∧ ¬ 255 < ((boot.setV 1 255).reg 1).toNat + (boot.reg 2).toNat ∧ (1 : Reg) ≠ 15 := by decide +kernel

theorem witness_SubtractionsSetVfOnNoBorrow :
    (boot.reg 2).toNat ≤ (boot.reg 1).toNat ∧ ¬ ((boot.setV 2 1).reg 2).toNat ≤ ((boot.setV 2 1).reg 1).toNat := by decide +kernel

theorem witness_ShiftsTakeVyAndSetVfToTheBitShiftedOut :
    ((boot.setV 2 1).reg 2).toNat % 2 = 1 ∧ ¬ (boot.reg 2).toNat % 2 = 1
    ∧ 128 ≤ ((boot.setV 2 128).reg 2).toNat ∧ ¬ 128 ≤ ((boot.setV 2 127).reg 2).toNat := by decide +kernel

theorem witness_RandomIsTheDrawUnderTheMask :
    (255 : Nat) ≤ 255 := by decide


/-! ### Index register, loads and stores (with `witness_Advances` and `witness_Accesses`) -/

theorem witness_InstructionsThatSetI :
    (0xFFF : Nat) ≤ 0xFFF ∧ boot.cfg.fontSmallBase + 80 ≤ 0x200 ∧ boot.cfg.fontBigBase + 160 ≤ 0x200
    ∧ (with' boot { defaultConfig with fontBigBase := 0x160 }).cfg.fontBigBase + 160 ≤ 0x200 := by decide +kernel

theorem witness_LongLoadSetsIFromTheSecondWord :
    (boot.setPc 0xFFFC).pc.toNat + 3 < boot.cfg.memSize ∧ boot.cfg.memSize ≤ (boot.setPc 0xFFFD).pc.toNat + 3 := by decide

theorem witness_StoreRegistersWritesV0ToVX :
    boot.cfg.loadStoreIncrementsI = true
    ∧ (with' boot { defaultConfig with loadStoreIncrementsI := false }).cfg.loadStoreIncrementsI = false
    ∧ (15 : Reg).val ≤ (15 : Reg).val ∧ (boot.setI 0xFFF0).i.toNat + ((15 : Reg).val + 1) ≤ boot.cfg.memSize := by decide +kernel

theorem witness_LoadRegistersReadsV0ToVX :
    boot.cfg.loadStoreIncrementsI = true
    ∧ (with' boot { defaultConfig with loadStoreIncrementsI := false }).cfg.loadStoreIncrementsI = false
    ∧ (0 : Reg).val < (1 : Reg).val ∧ (boot.setI 0xFFFF).i.toNat + ((0 : Reg).val + 1) ≤ boot.cfg.memSize := by decide +kernel

/-- A range going up and one going down, at their last register. -/
theorem witness_StoreRangeWritesInTheNamedOrder :
    ((2 : Reg) ≤ 4 ∧ (4 : Reg).val = (2 : Reg).val + 2) ∧ ((2 : Reg) < 4 ∧ (2 : Reg).val + 2 = (4 : Reg).val)
    ∧ 2 < max (2 : Reg).val (4 : Reg).val - min (2 : Reg).val (4 : Reg).val + 1
    ∧ (boot.setI 0xFFFD).i.toNat + 3 ≤ boot.cfg.memSize := by decide

/-- A range going up and one going down, at their last register. -/
theorem witness_LoadRangeReadsInTheNamedOrder :
    ((2 : Reg) ≤ 4 ∧ (4 : Reg).val = (2 : Reg).val + 2) ∧ ((2 : Reg) < 4 ∧ (2 : Reg).val + 2 = (4 : Reg).val)
    ∧ 2 < max (2 : Reg).val (4 : Reg).val - min (2 : Reg).val (4 : Reg).val + 1
    ∧ (boot.setI 0xFFFD).i.toNat + 3 ≤ boot.cfg.memSize := by decide


/-! ### Display -/

/-- Plane 0 is active and plane 1 is not; the last pixel. -/
theorem witness_ClearZeroesTheActivePlanes :
    (0 < boot.cfg.numPlanes ∧ boot.activePlanes.getLsbD 0 = true)
    ∧ ¬ (1 < boot.cfg.numPlanes ∧ boot.activePlanes.getLsbD 1 = true) ∧ 63 < width boot.mode ∧ 31 < height boot.mode := by decide

theorem witness_VerticalScrollsMoveRows :
    (15 : Nat) ≤ 15 ∧ (0 < boot.cfg.numPlanes ∧ boot.activePlanes.getLsbD 0 = true)
    ∧ ¬ (1 < boot.cfg.numPlanes ∧ boot.activePlanes.getLsbD 1 = true) ∧ 63 < width boot.mode ∧ 31 < height boot.mode := by decide

theorem witness_HorizontalScrollsMoveFourColumns :
    (0 < boot.cfg.numPlanes ∧ boot.activePlanes.getLsbD 0 = true)
    ∧ ¬ (1 < boot.cfg.numPlanes ∧ boot.activePlanes.getLsbD 1 = true) ∧ 63 < width boot.mode ∧ 31 < height boot.mode := by decide

theorem witness_PlaneSelectsTheActivePlanes :
    (15 : Nat) ≤ 15 := by decide

/-- The 16 x 16 form and the 15-row form; a draw that is in range, one past it, and one without an active plane;
a draw that collides and one that does not. -/
theorem witness_DrawXorsTheSpriteAndSetsVfOnCollision :
    (15 : Nat) ≤ 15 ∧ boot.planes.length = boot.cfg.numPlanes ∧ boot.act[0]? = some 0 ∧ 1 ∉ boot.act
    ∧ (boot.setActivePlanes 0).act = [] ∧ (boot.setActivePlanes 3).act = [0, 1]
    ∧ (boot.setI 0xFFE0).i.toNat + 32 * boot.act.length ≤ boot.cfg.memSize ∧ 0 < 32 * boot.act.length
    ∧ boot.cfg.memSize < (boot.setI 0xFFE1).i.toNat + 32 * boot.act.length
    ∧ (dot boot 0 0 0).planePixel 0 0 0 = true ∧ boot.planePixel 0 0 0 = false
    ∧ (boot.readByte (boot.i.toNat + 0 * 5 + 0)).getLsbD 7 = true := by decide +kernel

theorem witness_DrawingByRowsIsTheLoopOfTheSpec :
    bitmapFits .hires (flipPixel 127 63 (blank .hires)) = true ∧ 127 < width .hires ∧ 63 < height .hires
    ∧ (List.replicate 32 (0xFF : Byte)).length ≤ 32 := by decide +kernel

theorem witness_DrawingTwiceRestoresTheDisplay :
    (0 : Nat) ≤ 15 ∧ (0 : Reg) ≠ 15 ∧ (14 : Reg) ≠ 15 ∧ boot.planes.length = boot.cfg.numPlanes
    ∧ (∀ b ∈ boot.planes, bitmapFits boot.mode b = true) ∧ (boot.setPc 0xFFFB).pc.toNat + 4 ≤ 0xFFFF
    ∧ (boot.setI 0xFFE0).i.toNat + (if (0 : Nat) = 0 then 32 else 0) * boot.act.length ≤ boot.cfg.memSize := by decide +kernel

theorem witness_InverseScrollRestoresAllButTheEdge :
    (15 : Nat) ≤ 15 ∧ (boot.setPc 0xFFFB).pc.toNat + 4 ≤ 0xFFFF
    ∧ (0 < boot.cfg.numPlanes ∧ boot.activePlanes.getLsbD 0 = true)
    ∧ 16 + 15 < height boot.mode ∧ ¬ 17 + 15 < height boot.mode ∧ 59 + 4 < width boot.mode ∧ ¬ 60 + 4 < width boot.mode := by decide

theorem witness_FrameMapsThePlaneBitsThroughThePalette :
    63 < width boot.mode ∧ 31 < height boot.mode
    ∧ (3 : Fin 4).val = (if (dot (dot boot 0 63 31) 1 63 31).planePixel 0 63 31 then 1 else 0)
        + (if (dot (dot boot 0 63 31) 1 63 31).planePixel 1 63 31 then 2 else 0)
    ∧ (State.resetWith smallConfig 0).planes.length ≤ 1 := by decide +kernel


/-! ### Timers, audio and keypad -/

/-- W6: a reading above 0 and the first at 0. -/
theorem witness_TimersDecayByWallClockAndClampAtZero :
    let tr : TimerRegister := ⟨0, 0, 60, 60, 1⟩
    0 < tr.tickFrequencyHz ∧ 0 < tr.speedMultiplier ∧ tr.lastSetInstant ≤ 1 / 2 ∧ (1 / 2 : Seconds) ≤ 1
    ∧ tr.get (1 / 2) = 30 ∧ tr.get 1 = 0 ∧ tr.get (59 / 60) = 1 := by decide +kernel

theorem witness_SoundTimerArmsTheAudioPort :
    boot.st.tickFrequencyHz = 60 ∧ boot.st.speedMultiplier = boot.cfg.speedMult ∧ 0 < boot.cfg.speedMult
    ∧ boot.reg 0 = 0 ∧ (boot.setV 0 1).reg 0 ≠ 0 := by decide +kernel

theorem witness_KeySkipsTestOneKey :
    ((boot.setV 1 15).reg 1).toNat = (15 : Fin 16).val ∧ 15 < ((boot.setV 1 16).reg 1).toNat
    ∧ (pressed [15])[(15 : Fin 16)] = true ∧ boot.keys[(15 : Fin 16)] = false := by decide +kernel

theorem witness_KeyWaitBlocksUntilAFreshPress :
    (∀ k : Fin 16, ¬ (boot.keys[k] = true ∧ boot.prevKeys[k] = false))
    ∧ ((pressed [15])[(15 : Fin 16)] = true ∧ boot.prevKeys[(15 : Fin 16)] = false
      ∧ ∀ j : Fin 16, j < 15 → ¬ ((pressed [15])[j] = true ∧ boot.prevKeys[j] = false)) := by decide +kernel


/-! ### Reset and the host interface -/

/-- A program that fills the smaller memory, and both initial patterns. -/
theorem witness_ResetAndLoadLeaveTheStatedValues :
    smallConfig.wf = true ∧ ((State.resetWith smallConfig 1).load (List.replicate 3584 0x60)).isSome = true
    ∧ (1 : Seconds) ≤ 1 ∧ smallConfig.initPattern = .h55
    ∧ ({ smallConfig with initPattern := .hAA } : Config).wf = true
    ∧ ((State.resetWith { smallConfig with initPattern := .hAA } 1).load []).isSome = true := by decide +kernel

theorem witness_EmptyProgramTakesDecodeError :
    smallConfig.wf = true ∧ defaultConfig.wf = true := by decide +kernel

theorem witness_ProgramLoadAcceptsWhatFits :
    boot.cfg.wf = true ∧ (boot.load [0x60, 0x05]).isSome = true
    ∧ ((State.resetWith smallConfig 0).load (List.replicate 3585 0)).isNone = true := by decide +kernel

theorem witness_MailboxKeepsTheOlderSnapshot :
    boot.mailbox = none ∧ (boot.pushKeys (pressed [9])).mailbox = some (pressed [9])
    ∧ ({ boot with inputs := [⟨0, 0, some (pressed [2])⟩] } : State).nextInput.push = some (pressed [2])
    ∧ boot.nextInput.push = none := by decide +kernel

/-- A loop around a core that will clear the display. -/
def demoLoop : Loop :=
  { core := poke boot 0x200 [0x00, 0xE0], ready := false, pending := none, frame := none, heard := []
    keysOpen := true, framesOpen := true, audioWorks := true, ended := none }

/-- The same loop under `no_skip`. -/
def throttledLoop : Loop :=
  { demoLoop with core := with' demoLoop.core { defaultConfig with delivery := .noSkip } }

/-- R723, R724: under `no_skip` a turn raises the signal and holds the payload, the next waits; with the signal
taken a turn sends the payload, and the next waits for its consumption. -/
theorem test_handshake :
    let l := throttledLoop.iterate
    let m := (l.act .takeReady).iterate
    (l.ready && l.pending.isSome && l.frame.isNone && l.iterate == l && m.pending.isNone
      && m.frame == l.pending && m.iterate == m && (m.act .consumeFrame).frame.isNone) = true := by decide +kernel

theorem witness_FramePoliciesNeverChangeTheCore :
    demoLoop.ended = none ∧ demoLoop.keysOpen = true ∧ demoLoop.framesOpen = true ∧ demoLoop.audioWorks = true
    ∧ demoLoop.core.cfg.delivery = .skipFrames ∧ demoLoop.pending = none ∧ demoLoop.frame = none
    ∧ (∃ t, step demoLoop.core = .next t ∧ (t.halted == none && t.updated) = true)
    ∧ (∃ t, step (poke boot 0x200 [0x60, 0x05]) = .next t
      ∧ (t.halted == none && !t.updated && t.cfg.framePolicy == .onChange) = true) :=
  ⟨rfl, rfl, rfl, rfl, rfl, rfl, rfl, next_of (f := fun t => t.halted == none && t.updated) (by decide +kernel),
    next_of (f := fun t => t.halted == none && !t.updated && t.cfg.framePolicy == .onChange) (by decide +kernel)⟩

/-- `no_skip`: a signal not taken, a payload not consumed, a payload that may be sent; `skip_frames`: a payload
that waits, and an unconsumed one that makes the next be dropped. -/
theorem witness_FramePolicies_handshake :
    throttledLoop.core.cfg.delivery = .noSkip ∧ throttledLoop.iterate.ready = true
    ∧ (throttledLoop.iterate.sendPayload boot.toFrame).frame ≠ none
    ∧ throttledLoop.iterate.takeReady.ready = false ∧ throttledLoop.iterate.takeReady.frame = none
    ∧ throttledLoop.iterate.takeReady.pending ≠ none ∧ demoLoop.iterate.pending ≠ none
    ∧ (demoLoop.sendPayload boot.toFrame).frame ≠ none ∧ (demoLoop.sendPayload boot.toFrame).pending = none := by
  decide +kernel

/-- A turn that signals, a turn that sends (under `no_skip` too), and a payload waiting for its consumption. -/
theorem witness_FramePayloadFollowsItsSignal :
    demoLoop.pending = none ∧ (demoLoop.act .iterate).pending = some (demoLoop.act .iterate).core.toFrame
    ∧ demoLoop.iterate.frame = none ∧ (demoLoop.iterate.act .iterate).frame = demoLoop.iterate.pending
    ∧ throttledLoop.iterate.takeReady.iterate.frame = throttledLoop.iterate.pending
    ∧ throttledLoop.core.cfg.delivery = .noSkip
    ∧ (demoLoop.sendPayload boot.toFrame).frame = some boot.toFrame
    ∧ (demoLoop.sendPayload boot.toFrame).pending = none := by decide +kernel

theorem witness_HostSetsThePaletteEntries :
    63 < width boot.mode ∧ 31 < height boot.mode
    ∧ (2 : Fin 4).val = (if (dot boot 1 63 31).planePixel 0 63 31 then 1 else 0)
        + (if (dot boot 1 63 31).planePixel 1 63 31 then 2 else 0) := by decide +kernel

/-- Each end of the loop: channels, device, a faulting tick, a core halted already, and a loop that has ended. -/
theorem witness_ClosedChannelEndsTheLoopAndKeepsTheCore :
    demoLoop.ended = none ∧ (demoLoop.act .closeKeys).keysOpen = false ∧ (demoLoop.act .closeFrames).framesOpen = false
    ∧ (demoLoop.act .failAudio).audioWorks = false ∧ (demoLoop.act .closeKeys).iterate.ended ≠ none
    ∧ demoLoop.keysOpen = true ∧ demoLoop.framesOpen = true ∧ demoLoop.audioWorks = true ∧ demoLoop.pending = none
    ∧ demoLoop.core.cfg.delivery = .skipFrames ∧ throttledLoop.ready = false ∧ throttledLoop.frame = none
    ∧ (∃ t, step boot = .next t ∧ (t.halted == some ⟨.decodeError, 0, 0x200⟩) = true)
    ∧ step { boot with halted := some ⟨.decodeError, 0, 0x200⟩ } = .fault .decodeError :=
  ⟨rfl, rfl, rfl, rfl, by decide, rfl, rfl, rfl, rfl, rfl, rfl, rfl,
    next_of (f := fun t => t.halted == some ⟨.decodeError, 0, 0x200⟩) (by decide +kernel), rfl⟩

end Sys2Proof.Tests
end

section
/-! SUPPORT. Which parts of the state an instruction writes, said once as a table, and that everything
outside its row of the table is kept (the frames of rules R35 to R55). -/

namespace Sys2Proof.Machine

variable {s t u : State} {ps qs : List Part}

/-! ### The frame `OnlyChanges` -/

theorem Part.same_trans (p : Part) (h : p.same s t) (h' : p.same t u) : p.same s u := by
  cases p
  case mem => exact fun a => (h' a).trans (h a)
  all_goals exact Eq.trans h' h

theorem OnlyChanges.trans (h : OnlyChanges ps s t) (h' : OnlyChanges ps t u) : OnlyChanges ps s u :=
  fun p hp => p.same_trans (h p hp) (h' p hp)

theorem OnlyChanges.mono (h : OnlyChanges ps s t) (hps : ps ⊆ qs) : OnlyChanges qs s t :=
  fun p hp => h p fun hin => hp (hps hin)

theorem OnlyChanges.refl (s : State) : OnlyChanges ps s s := by
  intro p _
  cases p
  case mem => exact fun _ => rfl
  all_goals exact rfl

/-! ### What each named update changes -/

/-- The registers are outside every part. -/
theorem onlyChanges_v (s : State) (v : Vector Byte 16) : OnlyChanges ps s { s with v := v } := by
  intro p _
  cases p
  case mem => exact fun _ => rfl
  all_goals exact rfl

theorem onlyChanges_logicReset (s : State) : OnlyChanges ps s s.logicReset := by
  unfold State.logicReset
  split
  · exact onlyChanges_v s _
  · exact OnlyChanges.refl s

theorem onlyChanges_setRegs (s : State) (xs : List Reg) (bs : List Byte) : OnlyChanges ps s (s.setRegs xs bs) := by
  rw [State.setRegs_only_v]; exact onlyChanges_v s _

theorem onlyChanges_setI (s : State) (a : Word) : OnlyChanges [.i] s (s.setI a) := by
  intro p hp
  cases p
  case i => simp at hp
  case mem => exact fun _ => rfl
  all_goals exact rfl

theorem onlyChanges_push (s : State) (h : s.sp.toNat < 16) : OnlyChanges [.stack, .sp] s (s.push h) := by
  intro p hp
  cases p
  case stack | sp => simp at hp
  case mem => exact fun _ => rfl
  all_goals exact rfl

theorem onlyChanges_pop (s : State) (h : s.sp.toNat - 1 < 16) : OnlyChanges [.sp] s (s.pop h) := by
  intro p hp
  cases p
  case sp => simp at hp
  case mem => exact fun _ => rfl
  all_goals exact rfl

theorem onlyChanges_writeBytes (s : State) (a : Nat) (bs : List Byte) :
    OnlyChanges [.mem] s (s.writeBytes a bs) := by
  intro p hp
  cases p
  case mem => simp at hp
  all_goals exact rfl

theorem onlyChanges_setPlanes_markUpdated (s : State) (bs : List Bitmap) :
    OnlyChanges [.planes, .updated, .updates] s (s.setPlanes bs).markUpdated := by
  intro p hp
  cases p
  case planes | updated | updates => simp at hp
  case mem => exact fun _ => rfl
  all_goals exact rfl

theorem onlyChanges_setMode_markUpdated (s : State) (m : Mode) :
    OnlyChanges [.mode, .planes, .updated, .updates] s (s.setMode m).markUpdated := by
  intro p hp
  cases p
  case mode | planes | updated | updates => simp at hp
  case mem => exact fun _ => rfl
  all_goals exact rfl

theorem onlyChanges_setActivePlanes (s : State) (m : Byte) :
    OnlyChanges [.activePlanes] s (s.setActivePlanes m) := by
  intro p hp
  cases p
  case activePlanes => simp at hp
  case mem => exact fun _ => rfl
  all_goals exact rfl

theorem onlyChanges_setDt (s : State) (b : Byte) : OnlyChanges [.dt] s (s.setDt b) := by
  intro p hp
  cases p
  case dt => simp at hp
  case mem => exact fun _ => rfl
  all_goals exact rfl

theorem onlyChanges_setSt (s : State) (b : Byte) : OnlyChanges [.st, .events] s (s.setSt b) := by
  intro p hp
  cases p
  case st => simp at hp
  case mem => exact fun _ => rfl
  all_goals exact rfl

theorem onlyChanges_emit (s : State) (d : Seconds) : OnlyChanges [.st, .events] s (s.emit d) := by
  intro p hp
  cases p
  case events => simp at hp
  case mem => exact fun _ => rfl
  all_goals exact rfl

theorem onlyChanges_armSound (s : State) (b : Byte) : OnlyChanges [.st, .events] s (s.armSound b) := by
  unfold State.armSound
  split
  · exact onlyChanges_setSt s b
  · exact (onlyChanges_setSt s b).trans (onlyChanges_emit _ _)

theorem onlyChanges_setPattern (s : State) (q : Vector Byte 16) : OnlyChanges [.pattern] s (s.setPattern q) := by
  intro p hp
  cases p
  case pattern => simp at hp
  case mem => exact fun _ => rfl
  all_goals exact rfl

theorem onlyChanges_snapshotKeys (s : State) : OnlyChanges [.prevKeys] s s.snapshotKeys := by
  intro p hp
  cases p
  case prevKeys => simp at hp
  case mem => exact fun _ => rfl
  all_goals exact rfl

theorem onlyChanges_takeFault (s : State) (w : Word) (k : Fault) : OnlyChanges [.halted] s (s.takeFault w k) := by
  intro p hp
  cases p
  case halted => simp at hp
  case mem => exact fun _ => rfl
  all_goals exact rfl

/-- The parts FX55 and FX65 write besides their own (R407, R408). -/
def stepIWrites (c : Config) : List Part := if c.loadStoreIncrementsI then [.i] else []

theorem onlyChanges_stepI (s : State) (n : Nat) : OnlyChanges (stepIWrites s.cfg) s (s.stepI n) := by
  unfold State.stepI stepIWrites
  split
  · exact onlyChanges_setI s _
  · exact OnlyChanges.refl s

/-! ### The table of writers -/

/-- The parts an instruction writes when it completes or blocks. -/
def writes (c : Config) : Instr → List Part
  | .cls | .drw _ _ _ | .scd _ | .scu _ | .scr | .scl => [.planes, .updated, .updates]
  | .low | .high => [.mode, .planes, .updated, .updates]
  | .call _ => [.stack, .sp]
  | .ret => [.sp]
  | .ldB _ | .stRange _ _ => [.mem]
  | .stRegs _ => .mem :: stepIWrites c
  | .ldRegs _ => stepIWrites c
  | .ldI _ | .ldILong _ | .addI _ | .ldF _ | .ldHf _ => [.i]
  | .plane _ => [.activePlanes]
  | .audio => [.pattern]
  | .ldVxK _ => [.prevKeys]
  | .ldDtVx _ => [.dt]
  | .ldStVx _ => [.st, .events]
  | .jp _ | .jpV0 _ | .seImm _ _ | .sneImm _ _ | .seReg _ _ | .sneReg _ _ | .skp _ | .sknp _ | .ldRange _ _
  | .ldImm _ _ | .addImm _ _ | .ldReg _ _ | .orReg _ _ | .andReg _ _ | .xorReg _ _ | .addReg _ _ | .subReg _ _
  | .shr _ _ | .subn _ _ | .shl _ _ | .rnd _ _ | .ldVxDt _ => []

/-- The eight display instructions (R50, R501). -/
def displayMnemonics : List String := ["CLS", "DRW_VX__VY__N", "SCD_N", "SCU_N", "SCR", "SCL", "LOW", "HIGH"]

/-- The instructions the spec names as the writers of a part (R35, R37, R41, R46, R48, R50, R54, R55, R605,
R613), by mnemonic; the parts no instruction writes have none. -/
def writers (c : Config) : Part → List String
  | .i => ["LD_I__NNN", "LD_I__NNNN", "ADD_I__VX", "LD_F__VX", "LD_HF__VX"]
      ++ if c.loadStoreIncrementsI then ["LD__I___VX", "LD_VX___I"] else []
  | .stack => ["CALL_NNN"]
  | .sp => ["CALL_NNN", "RET"]
  | .mem => ["LD_B__VX", "LD__I___VX", "LD__I___VX-VY"]
  | .mode => ["LOW", "HIGH"]
  | .planes | .updated | .updates => displayMnemonics
  | .activePlanes => ["PLANE_X"]
  | .dt => ["LD_DT__VX"]
  | .st | .events => ["LD_ST__VX"]
  | .prevKeys => ["LD_VX__K"]
  | .pattern => ["AUDIO"]
  | .palette | .keys | .halted | .mailbox | .cfg | .now | .rand8 | .inputs | .ticks => []

/-- The two tables agree: an instruction is a named writer of each part it writes. -/
theorem mnemonic_mem_writers (c : Config) (i : Instr) : ∀ p ∈ writes c i, i.mnemonic ∈ writers c p := by
  by_cases hc : c.loadStoreIncrementsI = true <;>
    cases i <;> simp [writes, stepIWrites, writers, displayMnemonics, Instr.mnemonic, hc]

theorem target_call (nnn : Nat) (h : s.sp.toNat < 16) : target s (.call nnn) = s.push h := dif_pos h

theorem target_call_full (nnn : Nat) (h : ¬ s.sp.toNat < 16) : target s (.call nnn) = s := dif_neg h

theorem target_ret (h : s.sp.toNat - 1 < 16) : target s .ret = s.pop h := dif_pos h

theorem target_ret_past (h : ¬ s.sp.toNat - 1 < 16) : target s .ret = s := dif_neg h

/-- A completed instruction changes only the parts of its row. -/
theorem target_onlyChanges (s : State) (i : Instr) : OnlyChanges (writes s.cfg i) s (target s i) := by
  cases i with
  | cls | scd | scu | scr | scl => exact onlyChanges_setPlanes_markUpdated s _
  | drw x y n =>
    exact (onlyChanges_setPlanes_markUpdated s (s.drawnPlanes x y n)).trans (onlyChanges_v _ _)
  | low | high => exact onlyChanges_setMode_markUpdated s _
  | call nnn =>
    by_cases h : s.sp.toNat < 16
    · rw [target_call nnn h]; exact onlyChanges_push s h
    · rw [target_call_full nnn h]; exact OnlyChanges.refl s
  | ret =>
    by_cases h : s.sp.toNat - 1 < 16
    · rw [target_ret h]; exact onlyChanges_pop s h
    · rw [target_ret_past h]; exact OnlyChanges.refl s
  | ldB | stRange => exact onlyChanges_writeBytes s _ _
  | stRegs x =>
    exact ((onlyChanges_writeBytes s s.base _).mono (by simp [writes])).trans
      ((onlyChanges_stepI _ _).mono (by simp [writes]))
  | ldRegs x =>
    have h := onlyChanges_stepI (s.setRegs (regRange 0 x) (s.readBytes s.base (x.val + 1))) (x.val + 1)
    rw [State.setRegs_cfg] at h
    exact (onlyChanges_setRegs s _ _).trans h
  | ldI | ldILong | addI | ldF | ldHf => exact onlyChanges_setI s _
  | plane => exact onlyChanges_setActivePlanes s _
  | audio => exact onlyChanges_setPattern s _
  | ldVxK => exact (onlyChanges_snapshotKeys s).trans (onlyChanges_v _ _)
  | ldDtVx => exact onlyChanges_setDt s _
  | ldStVx => exact onlyChanges_armSound s _
  | jp | jpV0 | seImm | sneImm | seReg | sneReg | skp | sknp => exact OnlyChanges.refl s
  | ldRange => exact onlyChanges_setRegs s _ _
  | ldImm | addImm | ldReg | addReg | subReg | shr | subn | shl | rnd | ldVxDt => exact onlyChanges_v s _
  | orReg | andReg | xorReg => exact (onlyChanges_v s _).trans (onlyChanges_logicReset _)

/-- An instruction changes the parts of its row, or takes a fault. -/
theorem exec_onlyChanges {i : Instr} (h : exec i s = .next t) : OnlyChanges (.halted :: writes s.cfg i) s t := by
  cases exec_ends h with
  | executed p ht _ =>
    subst ht
    exact ((target_onlyChanges s i).trans ((setPc_keeps _ p _).2.mono (List.nil_subset _))).mono
      (List.subset_cons_self _ _)
  | blocked x hi ht =>
    subst hi ht
    exact (onlyChanges_snapshotKeys s).mono (List.subset_cons_self _ _)
  | faulted k ht =>
    subst ht
    exact (onlyChanges_takeFault s _ k).mono (by simp)

/-- A part that differs after an instruction is one the instruction is a named writer of. -/
theorem mnemonic_of_changed {i : Instr} (h : exec i s = .next t) (p : Part) (hne : ¬ p.same s t)
    (hp : p ≠ .halted := by decide) : i.mnemonic ∈ writers s.cfg p := by
  by_contra hw
  refine hne (exec_onlyChanges h p fun hin => ?_)
  rcases List.mem_cons.1 hin with rfl | hin
  · exact hp rfl
  · exact hw (mnemonic_mem_writers s.cfg i p hin)

/-- A part no instruction writes is kept. -/
theorem exec_keeps {i : Instr} (h : exec i s = .next t) (p : Part) (hw : writers s.cfg p = [])
    (hp : p ≠ .halted := by decide) : p.same s t := by
  by_contra hne
  have := mnemonic_of_changed h p hne hp
  simp [hw] at this

end Sys2Proof.Machine
end

section
/-! SUPPORT. The invariant of Safety.lean, operation by operation, and that every tick keeps it. -/

namespace Sys2Proof.Machine

variable {s t : State}

/-! ### One rule per update -/

theorem State.Inv.withV (h : s.Inv) (v : Vector Byte 16) : State.Inv { s with v := v } := { h with }

theorem State.Inv.setV (h : s.Inv) (x : Reg) (b : Byte) : (s.setV x b).Inv := h.withV _

theorem State.Inv.setVF (h : s.Inv) (c : Bool) : (s.setVF c).Inv := h.withV _

theorem State.Inv.setRegs (h : s.Inv) (xs : List Reg) (bs : List Byte) : (s.setRegs xs bs).Inv := by
  rw [State.setRegs_only_v]; exact h.withV _

theorem State.Inv.logicReset (h : s.Inv) : s.logicReset.Inv := by
  unfold State.logicReset
  split
  · exact h.withV _
  · exact h

theorem State.Inv.setI (h : s.Inv) (a : Word) : (s.setI a).Inv := { h with }

theorem State.Inv.stepI (h : s.Inv) (n : Nat) : (s.stepI n).Inv := by
  unfold State.stepI
  split
  · exact h.setI _
  · exact h

theorem State.Inv.setPc (h : s.Inv) (a : Word) : (s.setPc a).Inv := { h with }

theorem State.Inv.setPattern (h : s.Inv) (p : Vector Byte 16) : (s.setPattern p).Inv := { h with }

theorem State.Inv.snapshotKeys (h : s.Inv) : s.snapshotKeys.Inv := { h with }

theorem State.Inv.emit (h : s.Inv) (d : Seconds) : (s.emit d).Inv := { h with }

theorem State.Inv.markUpdated (h : s.Inv) : s.markUpdated.Inv := { h with }

theorem State.Inv.setResult (h : s.Inv) (r : TickResult) : (s.setResult r).Inv := { h with }

theorem State.Inv.takeFault (h : s.Inv) (w : Word) (k : Fault) : (s.takeFault w k).Inv := { h with }

theorem State.Inv.push (h : s.Inv) (hsp : s.sp.toNat < 16) : (s.push hsp).Inv :=
  { h with sp := by rw [State.push_sp]; bv_omega }

/-- R39: a return leaves SP at most 16, since it takes an entry from a stack that is not empty. -/
theorem State.Inv.pop (h : s.Inv) (hne : s.sp ≠ 0) (hsp : s.sp.toNat - 1 < 16) : (s.pop hsp).Inv :=
  { h with sp := by rw [State.pop_sp]; bv_omega }

/-- R40, R86: a write inside memory keeps the canonical form. -/
theorem State.Inv.writeBytes (h : s.Inv) {a : Nat} {bs : List Byte} (hb : a + bs.length ≤ s.cfg.memSize) :
    (s.writeBytes a bs).Inv :=
  { h with mem := State.wf_writeBytes s a bs hb h.mem }

theorem State.Inv.setPlanes (h : s.Inv) {ps : List Bitmap} (hl : ps.length = s.planes.length)
    (hd : ∀ b ∈ ps, bitmapFits s.mode b = true) : (s.setPlanes ps).Inv :=
  { h with planeCount := hl.trans h.planeCount, planeDims := hd }

/-- R47: an operation on the active planes that keeps the dimensions of the mode keeps those of every plane. -/
theorem State.Inv.mapIdx_fits (h : s.Inv) {f : Nat → Bitmap → Bitmap}
    (hf : ∀ p b, bitmapFits s.mode b = true → bitmapFits s.mode (f p b) = true) :
    (s.setPlanes (s.planes.mapIdx fun p b => if s.isActive p then f p b else b)).Inv := by
  refine h.setPlanes List.length_mapIdx fun b' hb' => ?_
  obtain ⟨p, hp, rfl⟩ := List.mem_mapIdx.1 hb'
  have hfit := h.planeDims _ (List.getElem_mem hp)
  split
  · exact hf p _ hfit
  · exact hfit

theorem State.Inv.mapActive (h : s.Inv) {f : Bitmap → Bitmap}
    (hf : ∀ b, bitmapFits s.mode b = true → bitmapFits s.mode (f b) = true) : (s.mapActive f).Inv :=
  h.mapIdx_fits fun _ => hf

theorem State.Inv.setDrawnPlanes (h : s.Inv) (x y : Reg) (n : Nat) : (s.setPlanes (s.drawnPlanes x y n)).Inv :=
  h.mapIdx_fits fun _ _ => drawn_fits _ _ _ _

theorem State.Inv.setMode (h : s.Inv) (m : Mode) : (s.setMode m).Inv :=
  { h with
    planeCount := List.length_replicate
    planeDims := fun b hb => by rw [List.eq_of_mem_replicate hb]; exact blank_fits m }

/-- R48, R530: the mask keeps to its low two bits. -/
theorem State.Inv.setActivePlanes (h : s.Inv) (mask : Nat) :
    (s.setActivePlanes (BitVec.ofNat 8 (mask % 4))).Inv :=
  { h with mask := by rw [State.setActivePlanes_activePlanes, BitVec.toNat_ofNat]; omega }

theorem State.Inv.setDt (h : s.Inv) (b : Byte) : (s.setDt b).Inv :=
  { h with dtPast := ⟨h.dtPast.1.trans h.dtPast.2, le_refl _⟩ }

theorem State.Inv.setSt (h : s.Inv) (b : Byte) : (s.setSt b).Inv :=
  { h with stPast := ⟨h.stPast.1.trans h.stPast.2, le_refl _⟩ }

theorem State.Inv.armSound (h : s.Inv) (b : Byte) : (s.armSound b).Inv := by
  unfold State.armSound
  split
  · exact h.setSt b
  · exact (h.setSt b).emit _

/-! ### The tick -/

/-- R600: the clock sample of the tick is never below the last one. -/
theorem State.le_nextNow (s : State) : s.now ≤ s.nextNow := by
  unfold State.nextNow
  split
  · assumption
  · exact le_refl _

theorem State.Inv.beginTick (h : s.Inv) : s.beginTick.Inv :=
  { h with
    dtPast := ⟨h.dtPast.1, h.dtPast.2.trans s.le_nextNow⟩
    stPast := ⟨h.stPast.1, h.stPast.2.trans s.le_nextNow⟩ }

/-- A store of at least one byte whose access is admitted keeps the invariant. -/
theorem State.Inv.store (h : s.Inv) {a n : Nat} {bs : List Byte} (hacc : s.admits a n = true) (hn : 0 < n)
    (hl : bs.length = n) : (s.writeBytes a bs).Inv := by
  have := (s.admits_iff a n).1 hacc
  exact h.writeBytes (by omega)

/-- R704: a return from an empty stack faults. -/
theorem exec_ret_empty (h : s.sp = 0) : exec .ret s = .next (s.takeFault (opcodeOf .ret) .stackUnderflow) := by
  simp [exec, execRet, h, commit_eq]

/-- A completed instruction keeps the invariant, its access being admitted. -/
theorem State.Inv.target (h : s.Inv) {i : Instr} (hret : i = .ret → s.sp ≠ 0)
    (hacc : ∀ a n, accessed s i = some (a, n) → s.admits a n = true) : (target s i).Inv := by
  cases i with
  | scd n => exact (h.mapActive fun _ => scrolledDown_fits n).markUpdated
  | scu n => exact (h.mapActive fun _ => scrolledUp_fits n).markUpdated
  | cls => exact (h.mapActive fun _ _ => blank_fits _).markUpdated
  | scr => exact (h.mapActive fun _ _ => scrolledRight_fits _ _).markUpdated
  | scl => exact (h.mapActive fun _ _ => scrolledLeft_fits _ _).markUpdated
  | low | high => exact (h.setMode _).markUpdated
  | drw x y n => exact ((h.setDrawnPlanes x y n).setVF _).markUpdated
  | call nnn =>
    by_cases hsp : s.sp.toNat < 16
    · rw [target_call nnn hsp]; exact h.push hsp
    · rw [target_call_full nnn hsp]; exact h
  | ret =>
    by_cases hsp : s.sp.toNat - 1 < 16
    · rw [target_ret hsp]; exact h.pop (hret rfl) hsp
    · rw [target_ret_past hsp]; exact h
  | jp | jpV0 | seImm | sneImm | seReg | sneReg | skp | sknp => exact h
  | ldB x => exact h.store (hacc _ _ rfl) (by decide) rfl
  | stRange x y =>
    exact h.store (hacc _ _ rfl) (rangeLength_pos x y) (by rw [State.length_regs, length_regRange])
  | stRegs x =>
    refine (h.store (hacc _ _ rfl) (Nat.succ_pos _) ?_).stepI _
    rw [State.length_regs, length_regRange, rangeLength_zero]
  | ldRange => exact h.setRegs _ _
  | ldRegs => exact (h.setRegs _ _).stepI _
  | ldImm | addImm | ldReg | rnd | ldVxDt => exact h.setV _ _
  | orReg | andReg | xorReg => exact (h.setV _ _).logicReset
  | addReg | subReg | shr | subn | shl => exact (h.setV _ _).setVF _
  | ldI | ldILong | addI | ldF | ldHf => exact h.setI _
  | plane mask => exact h.setActivePlanes mask
  | audio => exact h.setPattern _
  | ldVxK => exact h.snapshotKeys.setV _ _
  | ldDtVx => exact h.setDt _
  | ldStVx => exact h.armSound _

/-- Executing an instruction keeps the invariant. -/
theorem State.Inv.exec (h : s.Inv) {i : Instr} (ht : exec i s = .next t) : t.Inv := by
  by_cases hret : i = .ret ∧ s.sp = 0
  · obtain ⟨rfl, hsp⟩ := hret
    rw [exec_ret_empty hsp] at ht
    cases ht
    exact h.takeFault _ _
  · cases exec_ends ht with
    | executed p ht hacc =>
      subst ht
      exact ((h.target (fun hi hsp => hret ⟨hi, hsp⟩) hacc).setPc p).setResult _
    | blocked x hi ht => subst ht; exact h.snapshotKeys.setResult _
    | faulted k ht => subst ht; exact h.takeFault _ k

/-- What a tick of a core that is not halted comes to: a fault of the fetch or of the decode, or the
instruction's own outcome. -/
theorem step_cases (h : step s = .next t) :
    s.halted = none ∧
      ((s.beginTick.fetch = .noWord ∧ t = s.beginTick.fetchFault)
        ∨ (s.beginTick.fetch = .noSecondWord ∧ t = s.beginTick.secondWordFault)
        ∨ (∃ w, s.beginTick.fetch = .illegal w ∧ t = s.beginTick.illegalFault w)
        ∨ ∃ i rest, s.beginTick.fetch = .instr i rest ∧ exec i s.beginTick = .next t) := by
  unfold step at h
  cases hh : s.halted with
  | some r => simp [hh] at h
  | none =>
    refine ⟨rfl, ?_⟩
    cases hf : s.beginTick.fetch with
    | noWord => exact .inl ⟨rfl, by simpa [hh, hf] using h.symm⟩
    | noSecondWord => exact .inr (.inl ⟨rfl, by simpa [hh, hf] using h.symm⟩)
    | illegal w => exact .inr (.inr (.inl ⟨w, rfl, by simpa [hh, hf] using h.symm⟩))
    | instr i rest => exact .inr (.inr (.inr ⟨i, rest, rfl, by simpa [hh, hf] using h⟩))

/-- Settles O12: the beginning of a tick, a fault of the fetch and every instruction keep the invariant. -/
theorem stepKeepsTheInvariant : Obligations.StepKeepsTheInvariant := by
  intro s t hs hstep
  obtain ⟨_, ⟨_, rfl⟩ | ⟨_, rfl⟩ | ⟨w, _, rfl⟩ | ⟨i, rest, _, hexec⟩⟩ := step_cases hstep
  · exact hs.beginTick.takeFault _ _
  · exact hs.beginTick.takeFault _ _
  · exact hs.beginTick.takeFault _ _
  · exact hs.beginTick.exec hexec

end Sys2Proof.Machine
end

section
/-! SUPPORT. The writers of each part of the state (R35 to R55), from the table of writers. -/

namespace Sys2Proof.Machine

variable {s t : State} {i : Instr}

/-- An instruction that completes leaves its target, with PC moved and the result recorded. -/
theorem exec_executed (h : exec i s = .next t) (hr : t.result = some .executed) :
    ∃ p, t = ((target s i).setPc p).setResult .executed := by
  cases exec_ends h with
  | executed p ht _ => exact ⟨p, ht⟩
  | blocked x hi ht => subst ht; simp at hr
  | faulted k ht => subst ht; simp at hr

/-- R501: each display instruction ends in `mark_updated`. -/
theorem target_of_display (s : State) (hi : i.mnemonic ∈ displayMnemonics) :
    ∃ u : State, target s i = u.markUpdated ∧ u.updates = s.updates := by
  cases i
  case cls | drw | scd | scu | scr | scl | low | high => exact ⟨_, rfl, rfl⟩
  all_goals exact absurd hi (by simp [Instr.mnemonic, displayMnemonics])

/-- Settles O15: memory is a part whose named writers are the three stores. -/
theorem onlyStoresWriteMemory : Obligations.OnlyStoresWriteMemory := by
  intro i s t h hi
  by_contra hne
  exact hi (mnemonic_of_changed h .mem hne)

/-- Settles O16: a part that differs has been written by one of its named writers. -/
theorem eachPieceOfStateHasItsWriters : Obligations.EachPieceOfStateHasItsWriters := by
  intro i s t h
  refine ⟨fun hne => ?_, fun hne => List.mem_singleton.1 (mnemonic_of_changed h .stack hne),
    mnemonic_of_changed h .sp, mnemonic_of_changed h .mode,
    fun hne => List.mem_singleton.1 (mnemonic_of_changed h .activePlanes hne),
    fun hne => List.mem_singleton.1 (mnemonic_of_changed h .prevKeys hne),
    fun hne => List.mem_singleton.1 (mnemonic_of_changed h .pattern hne),
    fun hne => List.mem_singleton.1 (mnemonic_of_changed h .dt hne), fun hne => ?_,
    mnemonic_of_changed h .planes, exec_keeps h .keys rfl⟩
  · rcases List.mem_append.1 (mnemonic_of_changed h .i hne) with hi | hi
    · exact .inl hi
    · split at hi
      · next hc => exact .inr ⟨hc, hi⟩
      · cases hi
  · rcases hne with hne | hne
    · exact List.mem_singleton.1 (mnemonic_of_changed h .st hne)
    · exact List.mem_singleton.1 (mnemonic_of_changed h .events hne)

/-- Settles O17: the display instructions mark the display updated, and only they write the two counters. -/
theorem updatesCountTheDisplayInstructions : Obligations.UpdatesCountTheDisplayInstructions := by
  intro i s t h hr
  refine ⟨fun hi => ?_, fun hi => ⟨?_, ?_⟩⟩
  · obtain ⟨p, rfl⟩ := exec_executed h hr
    obtain ⟨u, hu, hcount⟩ := target_of_display s hi
    rw [hu]
    exact ⟨rfl, congrArg (· + 1) hcount⟩
  · by_contra hne
    exact hi (mnemonic_of_changed h .updated hne)
  · by_contra hne
    exact hi (mnemonic_of_changed h .updates hne)

end Sys2Proof.Machine
end

section
/-! SUPPORT. The word of a decoded instruction, and what a tick that faults leaves (R58, R700). -/

namespace Sys2Proof

section
variable {g x y n : Nat} {i : Instr}

/-! ### The word an instruction was decoded from (R116), group by group -/

theorem opcodeOf_of_decodeGroup0 (h : decodeGroup0 x y n = some i) : opcodeOf i = ofNibbles 0 x y n := by
  unfold decodeGroup0 at h
  split at h
  · cases h; rfl
  · cases h; rfl
  · split at h
    · cases h; rfl
    · cases h; rfl
    · cases h
  · split at h
    · cases h; rfl
    · cases h; rfl
    · cases h; rfl
    · cases h; rfl
    · cases h
  · cases h

theorem opcodeOf_of_decodeGroup5 (hx : x < 16) (hy : y < 16) (h : decodeGroup5 x y n = some i) :
    opcodeOf i = ofNibbles 5 x y n := by
  unfold decodeGroup5 at h
  split at h <;> cases h <;> simp only [opcodeOf, encXY, val_regOf hx, val_regOf hy]

theorem opcodeOf_of_decodeGroup8 (hx : x < 16) (hy : y < 16) (h : decodeGroup8 x y n = some i) :
    opcodeOf i = ofNibbles 8 x y n := by
  unfold decodeGroup8 at h
  split at h <;> cases h <;> simp only [opcodeOf, encXY, val_regOf hx, val_regOf hy]

theorem opcodeOf_of_decodeGroup9 (hx : x < 16) (hy : y < 16) (h : decodeGroup9 x y n = some i) :
    opcodeOf i = ofNibbles 9 x y n := by
  unfold decodeGroup9 at h
  split at h
  · cases h; simp only [opcodeOf, encXY, val_regOf hx, val_regOf hy]
  · cases h

theorem opcodeOf_of_decodeGroupE (hx : x < 16) (h : decodeGroupE x y n = some i) :
    opcodeOf i = ofNibbles 0xE x y n := by
  unfold decodeGroupE at h
  split at h <;> cases h <;> simp only [opcodeOf, encX, val_regOf hx]

theorem opcodeOf_of_decodeGroupF (hx : x < 16) (h : decodeGroupF x y n = some i) :
    opcodeOf i = ofNibbles 0xF x y n := by
  unfold decodeGroupF at h
  split at h
  case h_2 =>
    split at h
    · next hx0 => cases h; rw [hx0]; rfl
    · cases h
  all_goals cases h <;> simp only [opcodeOf, encX, val_regOf hx]

/-- The 8-bit field of two nibbles is encoded as these nibbles. -/
theorem encXNN_immNN (hx : x < 16) (hn : n < 16) : encXNN g (regOf x) (immNN y n) = ofNibbles g x y n := by
  rw [encXNN, val_regOf hx, immNN, show (y * 16 + n) / 16 = y by omega, show (y * 16 + n) % 16 = n by omega]

/-- The 12-bit field of three nibbles is encoded as these nibbles. -/
theorem encNNN_immNNN (hy : y < 16) (hn : n < 16) : encNNN g (immNNN x y n) = ofNibbles g x y n := by
  rw [encNNN, immNNN, show (x * 256 + y * 16 + n) / 256 = x by omega,
    show (x * 256 + y * 16 + n) / 16 % 16 = y by omega, show (x * 256 + y * 16 + n) % 16 = n by omega]

theorem opcodeOf_of_decodeNibbles (hx : x < 16) (hy : y < 16) (hn : n < 16)
    (h : decodeNibbles g x y n = some i) : opcodeOf i = ofNibbles g x y n := by
  unfold decodeNibbles at h
  split at h
  case h_1 => exact opcodeOf_of_decodeGroup0 h
  case h_6 => exact opcodeOf_of_decodeGroup5 hx hy h
  case h_9 => exact opcodeOf_of_decodeGroup8 hx hy h
  case h_10 => exact opcodeOf_of_decodeGroup9 hx hy h
  case h_14 => cases h; simp only [opcodeOf, encXY, val_regOf hx, val_regOf hy]
  case h_15 => exact opcodeOf_of_decodeGroupE hx h
  case h_16 => exact opcodeOf_of_decodeGroupF hx h
  case h_2 | h_3 | h_11 | h_12 => cases h; exact encNNN_immNNN hy hn
  case h_4 | h_5 | h_7 | h_8 | h_13 => cases h; exact encXNN_immNN hx hn
  case h_17 => cases h

end

/-- A word that decodes is the opcode word of its instruction (R116, R124). -/
theorem opcodeOf_of_decodeWord {w : Word} {i : Instr} (h : decodeWord w = some i) : opcodeOf i = w := by
  obtain ⟨_, hx, hy, hn⟩ := nibbles_lt w
  exact (opcodeOf_of_decodeNibbles hx hy hn h).trans (ofNibbles_nibbles w)

/-- The word a decoding is of, 0 when there is none: what a fault record holds (R58). -/
def Decoded.word : Decoded → Word
  | .instr i _ => opcodeOf i
  | .illegal w => w
  | .noWord => 0
  | .noSecondWord => longWord

theorem word_decode_cons_cons (b0 b1 : Byte) (rest : List Byte) :
    (decode (b0 :: b1 :: rest)).word = bigEndian b0 b1 := by
  simp only [decode]
  split
  · next hw => split <;> exact hw.symm
  · split
    · next i hi => exact opcodeOf_of_decodeWord hi
    · rfl

theorem decode_of_short {bs : List Byte} (h : bs.length < 2) : decode bs = .noWord := by
  match bs, h with
  | [], _ => rfl
  | [_], _ => rfl
  | _ :: _ :: _, h => simp at h

end Sys2Proof

namespace Sys2Proof.Machine

variable {s t : State} {i : Instr}

/-- The word the fetch finds at PC, or none (R202). -/
theorem State.word_fetch (s : State) :
    (s.pc.toNat + 1 < s.cfg.memSize ∧ s.fetch.word = s.word16 s.pc.toNat)
      ∨ (s.cfg.memSize ≤ s.pc.toNat + 1 ∧ s.fetch.word = 0) := by
  rcases Nat.lt_or_ge (s.pc.toNat + 1) s.cfg.memSize with h | h
  · obtain ⟨rest, hb⟩ := State.fetchBytes_eq h
    exact .inl ⟨h, by rw [State.fetch, hb, word_decode_cons_cons]; rfl⟩
  · have hshort : s.fetchBytes.length < 2 := by rw [State.length_fetchBytes]; omega
    exact .inr ⟨h, by rw [State.fetch, decode_of_short hshort]; rfl⟩

/-- An instruction completes or blocks and leaves `halted` alone, or its fault is taken. -/
theorem exec_completes_or_faults (h : exec i s = .next t) :
    (t.halted = s.halted ∧ (t.result = some .executed ∨ t.result = some .blocked))
      ∨ ∃ k, t = s.takeFault (opcodeOf i) k := by
  cases exec_ends h with
  | executed p ht _ =>
    subst ht
    have hkept : .halted ∉ writes s.cfg i := fun hin => by
      simpa [writers] using mnemonic_mem_writers s.cfg i .halted hin
    exact .inl ⟨target_onlyChanges s i .halted hkept, .inl rfl⟩
  | blocked x hi ht => subst ht; exact .inl ⟨rfl, .inr rfl⟩
  | faulted k ht => exact .inr ⟨k, ht⟩

/-- A tick completes or blocks, or takes a fault that records the word fetched (R58, R700). -/
theorem step_completes_or_faults (h : step s = .next t) :
    (t.halted = none ∧ (t.result = some .executed ∨ t.result = some .blocked))
      ∨ ∃ k, t = s.beginTick.takeFault s.beginTick.fetch.word k := by
  obtain ⟨hrun, ⟨hf, rfl⟩ | ⟨hf, rfl⟩ | ⟨w, hf, rfl⟩ | ⟨i, rest, hf, hexec⟩⟩ := step_cases h
  · exact .inr ⟨_, by rw [hf]; rfl⟩
  · exact .inr ⟨_, by rw [hf]; rfl⟩
  · exact .inr ⟨_, by rw [hf]; rfl⟩
  · rcases exec_completes_or_faults hexec with ⟨hh, hres⟩ | ⟨k, rfl⟩
    · exact .inl ⟨hh.trans hrun, hres⟩
    · exact .inr ⟨k, by rw [hf]; rfl⟩

/-- Settles O10: a fault of the tick is taken in the state it began in, with the word its fetch found. -/
theorem faultsArePreciseAndStopTheCore : Obligations.FaultsArePreciseAndStopTheCore := by
  intro s t _ hstep
  rcases step_completes_or_faults hstep with hdone | ⟨k, rfl⟩
  · exact .inl hdone
  · exact .inr ⟨k, s.beginTick.fetch.word, rfl, s.beginTick.word_fetch, rfl, rfl, rfl⟩

end Sys2Proof.Machine
end

section
/-! SUPPORT. The state after reset and load (R57, R800), the active planes (R48), and the palette in a
frame (R49, R540). -/

namespace Sys2Proof.Machine

/-! ### Active planes -/

theorem State.isActive_iff (s : State) (p : Nat) :
    s.isActive p = true ↔ p < s.cfg.numPlanes ∧ s.activePlanes.getLsbD p = true := by
  rw [State.isActive, Bool.and_eq_true, decide_eq_true_eq]

/-- Settles O42: `act` filters the rising list of the mask's bit numbers. -/
theorem activePlanesAreTheMaskInOrder : Obligations.ActivePlanesAreTheMaskInOrder := fun s =>
  ⟨fun p => (s.mem_act p).trans (s.isActive_iff p), List.pairwise_lt_range.filter _⟩

/-! ### Reset -/

/-- R57: reset gives planes of the lores dimensions, memory in canonical form and timers set now. -/
theorem State.resetWith_inv {c : Config} (t0 : Seconds) (hc : c.wf = true) : (State.resetWith c t0).Inv where
  cfg := hc
  mem := State.wf_resetWith c t0
  sp := Nat.zero_le 16
  planeCount := List.length_replicate
  planeDims b hb := by rw [List.eq_of_mem_replicate hb]; exact blank_fits .lores
  mask := show (0b01 : Byte).toNat < 4 by decide
  dtRate := ⟨rfl, rfl⟩
  stRate := ⟨rfl, rfl⟩
  dtPast := ⟨le_refl t0, le_refl t0⟩
  stPast := ⟨le_refl t0, le_refl t0⟩

theorem defaultConfig_wf : defaultConfig.wf = true := by decide +kernel

/-- Settles O13: the defaults are parameters the spec admits, and reset under such meets the invariant. -/
theorem resetMeetsTheInvariant : Obligations.ResetMeetsTheInvariant :=
  ⟨rfl, defaultConfig_wf, State.resetWith_inv 0 defaultConfig_wf, fun _ t0 hc => State.resetWith_inv t0 hc⟩

/-! ### Reset contents of memory -/

/-- What `Config.wf` says of the numbers of the parameters. -/
theorem Config.wf_bounds {c : Config} (h : c.wf = true) :
    c.timerFreqHz = 60 ∧ 0 < c.speedMult ∧ c.fontSmallBase + 80 ≤ 0x200 ∧ c.fontBigBase + 160 ≤ 0x200
      ∧ (c.fontSmallBase + 80 ≤ c.fontBigBase ∨ c.fontBigBase + 160 ≤ c.fontSmallBase) := by
  simp only [Config.wf, Bool.and_eq_true, Bool.or_eq_true, beq_iff_eq, decide_eq_true_eq, and_assoc] at h
  obtain ⟨_, _, hhz, hmult, _, _, hsmall, hbig, hapart, _⟩ := h
  exact ⟨hhz, hmult, hsmall, hbig, hapart⟩

theorem resetByte_small (c : Config) {k : Nat} (hk : k < 80) :
    resetByte c (c.fontSmallBase + k) = c.fontSmall.getD k 0 := by
  rw [resetByte, if_pos (by omega), Nat.add_sub_cancel_left]

/-- The big font, which does not overlap the small one. -/
theorem resetByte_big {c : Config} (hc : c.wf = true) {k : Nat} (hk : k < 160) :
    resetByte c (c.fontBigBase + k) = c.fontBig.getD k 0 := by
  obtain ⟨_, _, _, _, hapart⟩ := Config.wf_bounds hc
  rw [resetByte, if_neg (by omega), if_pos (by omega), Nat.add_sub_cancel_left]

theorem resetByte_outside {c : Config} {a : Nat} (hs : a < c.fontSmallBase ∨ c.fontSmallBase + 80 ≤ a)
    (hb : a < c.fontBigBase ∨ c.fontBigBase + 160 ≤ a) : resetByte c a = 0 := by
  rw [resetByte, if_neg (by omega), if_neg (by omega)]

/-! ### Load -/

/-- An accepted load writes the program at 0x200 and does nothing else (R802). -/
theorem State.eq_of_load {s t : State} {prog : List Byte} (h : s.load prog = some t) :
    t = s.writeBytes 0x200 prog := by
  unfold State.load at h
  split at h
  · exact (Option.some.inj h).symm
  · cases h

section
variable (c : Config) (t0 : Seconds) (prog : List Byte)

/-- A byte outside the program reads its reset contents. -/
theorem readByte_reset_load {a : Nat} (h : a < 0x200 ∨ 0x200 + prog.length ≤ a) :
    ((State.resetWith c t0).writeBytes 0x200 prog).readByte a = resetByte c a := by
  rw [State.readByte_writeBytes, if_neg (by omega)]; rfl

/-- Byte k of the program stands at 0x200 + k. -/
theorem readByte_reset_load_prog {k : Nat} (h : k < prog.length) :
    ((State.resetWith c t0).writeBytes 0x200 prog).readByte (0x200 + k) = prog.getD k 0 := by
  rw [State.readByte_writeBytes, if_pos (by omega), Nat.add_sub_cancel_left]

end

theorem planePixel_of_blank {s : State} (h : ∀ b ∈ s.planes, b = blank .lores) (p x y : Nat) :
    s.planePixel p x y = false := by
  unfold State.planePixel
  rcases Nat.lt_or_ge p s.planes.length with hp | hp
  · rw [List.getD_eq_getElem _ _ hp, h _ (List.getElem_mem hp), pixel_blank]
  · rw [List.getD_eq_default _ _ hp, pixel_nil]

/-- A timer at rest reads 0 from the instant it was set on (R601). -/
theorem TimerRegister.get_atRest {t0 t : Seconds} {hz : Nat} {mult : Rat} (hmult : 0 < mult) (ht : t0 ≤ t) :
    (TimerRegister.atRest t0 hz mult).get t = 0 := by
  have hsteps : 0 ≤ (TimerRegister.atRest t0 hz mult).steps t := by
    rw [TimerRegister.steps_eq]
    refine Int.floor_nonneg.2 (mul_nonneg (sub_nonneg.2 ht) (mul_nonneg (Nat.cast_nonneg hz) hmult.le))
  have h := TimerRegister.toNat_get _ t hsteps
  have hval : (TimerRegister.atRest t0 hz mult).lastSetValue.toNat = 0 := rfl
  refine BitVec.eq_of_toNat_eq (y := 0#8) ?_
  rw [hval] at h
  rw [BitVec.toNat_zero]
  omega

/-- Settles O53: the fields are those of `resetWith`; memory is the program over the reset contents. -/
theorem resetAndLoadLeaveTheStatedValues : Obligations.ResetAndLoadLeaveTheStatedValues := by
  refine ⟨rfl, fun c t0 t prog s hc hload ht => ?_⟩
  obtain ⟨hhz, hmult, hsmall, hbig, _⟩ := Config.wf_bounds hc
  obtain rfl := State.eq_of_load hload
  have hblank : ∀ b ∈ (State.resetWith c t0).planes, b = blank .lores := fun b => List.eq_of_mem_replicate
  have htimer : TimerRegister.atRest t0 c.timerFreqHz c.speedMult = ⟨t0, t0, 0, 60, c.speedMult⟩ := by
    rw [hhz]; rfl
  refine ⟨fun r => ?_, rfl, rfl, rfl, fun k => ?_, fun k hk => ?_, fun k hk => ?_,
    fun k => readByte_reset_load_prog c t0 prog, fun a hs hb hp => ?_, rfl, List.length_replicate,
    fun b hb => ?_, planePixel_of_blank hblank, rfl, rfl, rfl, rfl, htimer, htimer,
    TimerRegister.get_atRest hmult ht, TimerRegister.get_atRest hmult ht, fun k => ?_, fun k => ?_,
    fun hp k => ?_, fun hp k => ?_, rfl⟩
  · exact Vector.getElem_replicate _
  · exact Vector.getElem_replicate _
  · rw [readByte_reset_load c t0 prog (by omega), resetByte_small c hk]
  · rw [readByte_reset_load c t0 prog (by omega), resetByte_big hc hk]
  · rw [readByte_reset_load c t0 prog hp, resetByte_outside hs hb]
  · rw [hblank b hb]; exact blank_fits .lores
  · exact Vector.getElem_replicate _
  · exact Vector.getElem_replicate _
  · simp [State.resetWith, initialPattern, hp]
  · simp [State.resetWith, initialPattern, hp]

/-! ### The palette and the frame -/

theorem onlyChanges_setPalette (s : State) (p : Vector Colour 4) : OnlyChanges [.palette] s (s.setPalette p) := by
  intro q hq
  cases q
  case palette => simp at hq
  case mem => exact fun _ => rfl
  all_goals exact rfl

/-- Entry y * w + x of h rows of w entries each, put one after the other, is entry x of row y. -/
theorem getElem?_rows {α : Type} (f : Nat → Nat → α) {w h x y : Nat} (hx : x < w) (hy : y < h) :
    ((List.range h).flatMap fun y => (List.range w).map (f y))[y * w + x]? = some (f y x) := by
  have hlen : ∀ h, ((List.range h).flatMap fun y => (List.range w).map (f y)).length = h * w := by
    intro h; simp [List.length_flatMap]
  induction h with
  | zero => omega
  | succ h ih =>
    rw [List.range_succ, List.flatMap_append, List.flatMap_singleton]
    rcases Nat.lt_or_ge y h with hlt | hge
    · have : y * w + x < h * w := by
        calc y * w + x < (y + 1) * w := by rw [Nat.succ_mul]; omega
          _ ≤ h * w := Nat.mul_le_mul_right w hlt
      rw [List.getElem?_append_left (by rw [hlen]; exact this), ih hlt]
    · obtain rfl : y = h := by omega
      rw [List.getElem?_append_right (by rw [hlen]; omega), hlen, Nat.add_sub_cancel_left]
      simp [hx]

/-- R540: the frame's pixel (x, y) is the palette entry of its colour index. -/
theorem State.getElem?_toFrame (s : State) {x y : Nat} (hx : x < width s.mode) (hy : y < height s.mode) :
    s.toFrame.pixels[y * width s.mode + x]? = some s.palette[s.colourIndex x y] :=
  getElem?_rows _ hx hy

/-- The colour index is plane 0's bit and twice plane 1's bit (R540). -/
theorem State.val_colourIndex (s : State) (x y : Nat) :
    (s.colourIndex x y).val
      = (if s.planePixel 0 x y then 1 else 0) + (if s.planePixel 1 x y then 2 else 0) := by
  unfold State.colourIndex
  cases s.planePixel 0 x y <;> cases s.planePixel 1 x y <;> rfl

/-- Settles O60: the palette is a part of its own, and a frame looks its colours up in it. -/
theorem hostSetsThePaletteEntries : Obligations.HostSetsThePaletteEntries := by
  intro s l p c0 c1
  have kept (q : Vector Colour 4) : (s.setPalette q).pc = s.pc ∧ (s.setPalette q).result = s.result
      ∧ RegsKept [] s (s.setPalette q) ∧ OnlyChanges [.palette] s (s.setPalette q) :=
    ⟨rfl, rfl, fun _ _ => rfl, onlyChanges_setPalette s q⟩
  refine ⟨rfl, kept p, rfl, rfl, rfl, rfl, kept _, rfl, rfl, fun x y k hx hy hk => ?_⟩
  have hidx : (s.setPalette p).colourIndex x y = k :=
    Fin.ext (((s.setPalette p).val_colourIndex x y).trans hk.symm)
  rw [← hidx]
  exact (s.setPalette p).getElem?_toFrame hx hy

end Sys2Proof.Machine
end

section
/-! SUPPORT. Decoding and encoding are inverse to each other (30_encoding.md sections 3 and 6): a word that
decodes and the opcode word of a well-formed instruction, then the same for the bytes. -/

namespace Sys2Proof

/-- A well-formed instruction of one word: its fields fit (R124) and no word follows (R110). -/
structure Instr.IsOneWord (i : Instr) : Prop where
  wf : i.wf = true
  noData : dataWords i = []

/-! ### The opcode word of an instruction decodes by its nibbles (R112, R116) -/

section
variable {g : Nat} {x y : Reg}

theorem decodeWord_encXY {n : Nat} (hg : g < 16) (hn : n < 16) :
    decodeWord (encXY g x y n) = decodeNibbles g x.val y.val n :=
  decodeWord_ofNibbles hg x.isLt y.isLt hn

theorem decodeWord_encX {s1 s0 : Nat} (hg : g < 16) (h1 : s1 < 16) (h0 : s0 < 16) :
    decodeWord (encX g x s1 s0) = decodeNibbles g x.val s1 s0 :=
  decodeWord_ofNibbles hg x.isLt h1 h0

theorem decodeWord_encXNN {nn : Nat} (hg : g < 16) (hnn : fitsNN nn = true) :
    decodeWord (encXNN g x nn) = decodeNibbles g x.val (nn / 16) (nn % 16) :=
  have hle : nn ≤ 255 := of_decide_eq_true hnn
  decodeWord_ofNibbles hg x.isLt (by omega) (by omega)

theorem decodeWord_encNNN {nnn : Nat} (hg : g < 16) (hnnn : fitsNNN nnn = true) :
    decodeWord (encNNN g nnn) = decodeNibbles g (nnn / 256) (nnn / 16 % 16) (nnn % 16) :=
  have hle : nnn ≤ 0xFFF := of_decide_eq_true hnnn
  decodeWord_ofNibbles hg (by omega) (by omega) (by omega)

end

/-- An 8-bit immediate is put together again from its two nibbles. -/
theorem immNN_nibbles (nn : Nat) : immNN (nn / 16) (nn % 16) = nn := by
  rw [immNN]; omega

/-- A 12-bit address is put together again from its three nibbles. -/
theorem immNNN_nibbles (nnn : Nat) : immNNN (nnn / 256) (nnn / 16 % 16) (nnn % 16) = nnn := by
  rw [immNNN]; omega

theorem fitsN_iff {n : Nat} : fitsN n = true ↔ n < 16 := by
  rw [fitsN, decide_eq_true_iff]; omega

/-- The opcode word of an instruction of one word decodes to it (R116, R124). -/
theorem decodeWord_opcodeOf {i : Instr} (h : i.IsOneWord) : decodeWord (opcodeOf i) = some i := by
  cases i
  case ldILong => cases h.noData
  case cls | ret | scr | scl | low | high | audio => decide
  case scd n | scu n =>
    exact decodeWord_ofNibbles (by decide) (by decide) (by decide) (fitsN_iff.1 h.wf)
  case plane mask =>
    exact decodeWord_ofNibbles (by decide) (fitsN_iff.1 h.wf) (by decide) (by decide)
  case jp nnn | call nnn | ldI nnn | jpV0 nnn =>
    rw [opcodeOf, decodeWord_encNNN (by decide) h.wf]
    simp only [decodeNibbles, immNNN_nibbles]
  case seImm x nn | sneImm x nn | ldImm x nn | addImm x nn | rnd x nn =>
    rw [opcodeOf, decodeWord_encXNN (by decide) h.wf]
    simp only [decodeNibbles, regOf_val, immNN_nibbles]
  case drw x y n =>
    rw [opcodeOf, decodeWord_encXY (by decide) (fitsN_iff.1 h.wf)]
    simp only [decodeNibbles, regOf_val]
  case skp x | sknp x =>
    rw [opcodeOf, decodeWord_encX (by decide) (by decide) (by decide)]
    simp only [decodeNibbles, decodeGroupE, regOf_val]
  case ldVxDt x | ldVxK x | ldDtVx x | ldStVx x | addI x | ldF x | ldHf x | ldB x | stRegs x | ldRegs x =>
    rw [opcodeOf, decodeWord_encX (by decide) (by decide) (by decide)]
    simp only [decodeNibbles, decodeGroupF, regOf_val]
  all_goals
    rw [opcodeOf, decodeWord_encXY (by decide) (by decide)]
    simp only [decodeNibbles, decodeGroup5, decodeGroup8, decodeGroup9, regOf_val]

/-! ### A decoded instruction is well-formed and has no data words, group by group -/

section
variable {g x y n : Nat} {i : Instr}

theorem isOneWord_of_decodeGroup0 (hn : n < 16) (h : decodeGroup0 x y n = some i) : i.IsOneWord := by
  unfold decodeGroup0 at h
  split at h
  case h_1 | h_2 => cases h; exact ⟨fitsN_iff.2 hn, rfl⟩
  case h_3 | h_4 => split at h <;> cases h <;> exact ⟨rfl, rfl⟩
  case h_5 => cases h

theorem isOneWord_of_decodeGroup5 (h : decodeGroup5 x y n = some i) : i.IsOneWord := by
  unfold decodeGroup5 at h
  split at h <;> cases h <;> exact ⟨rfl, rfl⟩

theorem isOneWord_of_decodeGroup8 (h : decodeGroup8 x y n = some i) : i.IsOneWord := by
  unfold decodeGroup8 at h
  split at h <;> cases h <;> exact ⟨rfl, rfl⟩

theorem isOneWord_of_decodeGroup9 (h : decodeGroup9 x y n = some i) : i.IsOneWord := by
  unfold decodeGroup9 at h
  split at h <;> cases h
  exact ⟨rfl, rfl⟩

theorem isOneWord_of_decodeGroupE (h : decodeGroupE x y n = some i) : i.IsOneWord := by
  unfold decodeGroupE at h
  split at h <;> cases h <;> exact ⟨rfl, rfl⟩

theorem isOneWord_of_decodeGroupF (hx : x < 16) (h : decodeGroupF x y n = some i) : i.IsOneWord := by
  unfold decodeGroupF at h
  split at h
  case h_1 => cases h; exact ⟨fitsN_iff.2 hx, rfl⟩
  case h_2 => split at h <;> cases h; exact ⟨rfl, rfl⟩
  all_goals cases h <;> exact ⟨rfl, rfl⟩

theorem fitsNN_immNN (hy : y < 16) (hn : n < 16) : fitsNN (immNN y n) = true :=
  decide_eq_true (by rw [immNN]; omega)

theorem fitsNNN_immNNN (hx : x < 16) (hy : y < 16) (hn : n < 16) : fitsNNN (immNNN x y n) = true :=
  decide_eq_true (by rw [immNNN]; omega)

theorem isOneWord_of_decodeNibbles (hx : x < 16) (hy : y < 16) (hn : n < 16)
    (h : decodeNibbles g x y n = some i) : i.IsOneWord := by
  unfold decodeNibbles at h
  split at h
  case h_1 => exact isOneWord_of_decodeGroup0 hn h
  case h_6 => exact isOneWord_of_decodeGroup5 h
  case h_9 => exact isOneWord_of_decodeGroup8 h
  case h_10 => exact isOneWord_of_decodeGroup9 h
  case h_14 => cases h; exact ⟨fitsN_iff.2 hn, rfl⟩
  case h_15 => exact isOneWord_of_decodeGroupE h
  case h_16 => exact isOneWord_of_decodeGroupF hx h
  case h_2 | h_3 | h_11 | h_12 => cases h; exact ⟨fitsNNN_immNNN hx hy hn, rfl⟩
  case h_4 | h_5 | h_7 | h_8 | h_13 => cases h; exact ⟨fitsNN_immNN hy hn, rfl⟩
  case h_17 => cases h

end

theorem isOneWord_of_decodeWord {w : Word} {i : Instr} (h : decodeWord w = some i) : i.IsOneWord :=
  have ⟨_, hx, hy, hn⟩ := nibbles_lt w
  isOneWord_of_decodeNibbles hx hy hn h

/-- Decoding and encoding a word are inverse to each other (R116, R124). -/
theorem decodeWord_eq_some_iff {w : Word} {i : Instr} :
    decodeWord w = some i ↔ i.IsOneWord ∧ opcodeOf i = w := by
  refine ⟨fun h => ⟨isOneWord_of_decodeWord h, opcodeOf_of_decodeWord h⟩, ?_⟩
  rintro ⟨hone, rfl⟩
  exact decodeWord_opcodeOf hone

/-! ### The bytes of an instruction (R110, R115, R402) -/

section
variable {b0 b1 b2 b3 : Byte} {bs rest : List Byte} {i : Instr}

/-- 0xF000 is the first word of the 4-byte instruction only (R110, R120). -/
theorem decodeWord_longWord : decodeWord longWord = none := by decide

theorem decode_of_decodeWord (h : decodeWord (bigEndian b0 b1) = some i) :
    decode (b0 :: b1 :: rest) = .instr i rest := by
  have hlong : bigEndian b0 b1 ≠ longWord := fun hw => by
    rw [hw, decodeWord_longWord] at h
    cases h
  simp only [decode, if_neg hlong, h]

theorem decode_of_longWord (h : bigEndian b0 b1 = longWord) :
    decode (b0 :: b1 :: b2 :: b3 :: rest) = .instr (.ldILong (bigEndian b2 b3).toNat) rest := by
  simp only [decode, if_pos h]

theorem decode_of_illegal (hlong : bigEndian b0 b1 ≠ longWord) (h : decodeWord (bigEndian b0 b1) = none) :
    decode (b0 :: b1 :: rest) = .illegal (bigEndian b0 b1) := by
  simp only [decode, if_neg hlong, h]

/-- Bytes that decode begin with a word that decodes, or with 0xF000 and a second word (R115, R119). -/
theorem bytes_of_decode (h : decode bs = .instr i rest) :
    (∃ b0 b1, bs = b0 :: b1 :: rest ∧ decodeWord (bigEndian b0 b1) = some i)
      ∨ ∃ b0 b1 b2 b3, bs = b0 :: b1 :: b2 :: b3 :: rest ∧ bigEndian b0 b1 = longWord
          ∧ i = .ldILong (bigEndian b2 b3).toNat := by
  unfold decode at h
  split at h
  · split at h
    · next hlong =>
      split at h
      · cases h; exact .inr ⟨_, _, _, _, rfl, hlong, rfl⟩
      · cases h
    · split at h
      · next hi => cases h; exact .inl ⟨_, _, rfl, hi⟩
      · cases h
  · cases h

theorem wordBytes_bigEndian (ws : List Word) :
    wordBytes (bigEndian b0 b1 :: ws) = b0 :: b1 :: wordBytes ws := by
  rw [wordBytes, highByte_bigEndian, lowByte_bigEndian]

end

theorem encodeBytes_of_isOneWord {i : Instr} (h : i.IsOneWord) : encodeBytes i = wordBytes [opcodeOf i] := by
  rw [encodeBytes, encode, h.noData]

theorem isOneWord_or_ldILong {i : Instr} (hwf : i.wf = true) : i.IsOneWord ∨ ∃ nnnn, i = .ldILong nnnn := by
  cases i
  case ldILong nnnn => exact .inr ⟨nnnn, rfl⟩
  all_goals exact .inl ⟨hwf, rfl⟩

/-- Settles O2: a word decodes exactly when it is the opcode word of an instruction of one word; the 4-byte
instruction is decoded from its own first word. -/
theorem decodeOfEncodeIsTheInstruction : Obligations.DecodeOfEncodeIsTheInstruction := by
  intro i rest hwf
  rcases isOneWord_or_ldILong hwf with hone | ⟨nnnn, rfl⟩
  · rw [encodeBytes_of_isOneWord hone]
    exact decode_of_decodeWord (by rw [bigEndian_bytes]; exact decodeWord_eq_some_iff.2 ⟨hone, rfl⟩)
  · have hle : nnnn ≤ 0xFFFF := of_decide_eq_true hwf
    refine (decode_of_longWord (bigEndian_bytes longWord)).trans ?_
    rw [bigEndian_bytes, BitVec.toNat_ofNat, Nat.mod_eq_of_lt (by omega)]
    rfl

/-- Settles O3: the two forms of bytes that decode, each put together again. -/
theorem encodeOfDecodeGivesTheBytesBack : Obligations.EncodeOfDecodeGivesTheBytesBack := by
  intro bs rest i h
  obtain ⟨b0, b1, rfl, hi⟩ | ⟨b0, b1, b2, b3, rfl, hlong, rfl⟩ := bytes_of_decode h
  · obtain ⟨hone, hw⟩ := decodeWord_eq_some_iff.1 hi
    exact ⟨hone.wf, by rw [encodeBytes_of_isOneWord hone, hw, wordBytes_bigEndian]; rfl⟩
  · refine ⟨decide_eq_true (Nat.le_of_lt_succ (bigEndian b2 b3).isLt), ?_⟩
    rw [encodeBytes, encode, opcodeOf, dataWords, BitVec.ofNat_toNat, BitVec.setWidth_eq, ← hlong,
      wordBytes_bigEndian, wordBytes_bigEndian]
    rfl

/-- Settles O1: the twelve words, decoded. -/
theorem familyWordsDecodeAsTheTableSays : Obligations.FamilyWordsDecodeAsTheTableSays := by
  unfold Obligations.FamilyWordsDecodeAsTheTableSays
  decide

end Sys2Proof
end

section
/-! SUPPORT. The rows of R116 and the decoder: no word matches two rows, a word decodes exactly when it matches
one, and a step at a word that matches none takes `DecodeError` (30_encoding.md sections 3 and 4). -/

namespace Sys2Proof

/-! ### The words a row matches (R115) -/

section
variable {w m p : Word} {r r₁ r₂ : OpcodeRow}

/-- A nibble v of a word that matches: the pattern's, unless the mask leaves it free. -/
def keptNibble (m p v : Nat) : Nat := if m = 15 then p else v

theorem keptNibble_and {m v : Nat} (hv : v < 16) : keptNibble m (v &&& m) v = v := by
  unfold keptNibble
  split
  · next hm => rw [hm, nibble_and_15 hv]
  · rfl

/-- A word that matches decodes by the pattern's nibbles where the mask keeps them. -/
theorem decodeWord_of_and_eq (h : w &&& m = p) :
    decodeWord w = decodeNibbles (keptNibble (nibble0 m) (nibble0 p) (nibble0 w))
      (keptNibble (nibble1 m) (nibble1 p) (nibble1 w)) (keptNibble (nibble2 m) (nibble2 p) (nibble2 w))
      (keptNibble (nibble3 m) (nibble3 p) (nibble3 w)) := by
  obtain ⟨hg, hx, hy, hn⟩ := nibbles_lt w
  obtain ⟨hg', hx', hy', hn'⟩ := nibbles_lt m
  have hp : p = ofNibbles (nibble0 w &&& nibble0 m) (nibble1 w &&& nibble1 m) (nibble2 w &&& nibble2 m)
      (nibble3 w &&& nibble3 m) := by
    rw [← ofNibbles_and hg hx hy hn hg' hx' hy' hn', ofNibbles_nibbles, ofNibbles_nibbles, h]
  have lt : ∀ {a b : Nat}, a < 16 → a &&& b < 16 := Nat.lt_of_le_of_lt Nat.and_le_left
  rw [hp, nibble0_ofNibbles (lt hg) (lt hx) (lt hy) (lt hn), nibble1_ofNibbles (lt hg) (lt hx) (lt hy) (lt hn),
    nibble2_ofNibbles (lt hg) (lt hx) (lt hy) (lt hn), nibble3_ofNibbles (lt hg) (lt hx) (lt hy) (lt hn),
    keptNibble_and hg, keptNibble_and hx, keptNibble_and hy, keptNibble_and hn, decodeWord]

/-- Whatever the free nibbles of a row are, the decoder knows the word; it leaves 0xF000 to `decode`. -/
theorem isSome_decodeNibbles_of_row (hr : r ∈ opcodeRows) (g x y n : Nat) :
    (decodeNibbles (keptNibble (nibble0 r.mask) (nibble0 r.pattern) g)
      (keptNibble (nibble1 r.mask) (nibble1 r.pattern) x) (keptNibble (nibble2 r.mask) (nibble2 r.pattern) y)
      (keptNibble (nibble3 r.mask) (nibble3 r.pattern) n)).isSome = (r.pattern != longWord) := by
  fin_cases hr <;> rfl

/-- The row of 0xF000 matches that word only. -/
theorem eq_longWord_of_row (hr : r ∈ opcodeRows) (h : w &&& r.mask = r.pattern) (hp : r.pattern = longWord) :
    w = longWord := by
  have hmask : ∀ r ∈ opcodeRows, r.pattern = longWord → r.mask = BitVec.allOnes 16 := by decide
  rw [← hp, ← h, hmask r hr hp, BitVec.and_allOnes]

/-- A word that matches a row is 0xF000 or decodes. -/
theorem decodes_of_row (hr : r ∈ opcodeRows) (h : w &&& r.mask = r.pattern) :
    w = longWord ∨ ∃ i, decodeWord w = some i := by
  by_cases hp : r.pattern = longWord
  · exact .inl (eq_longWord_of_row hr h hp)
  · refine .inr (Option.isSome_iff_exists.1 ?_)
    rw [decodeWord_of_and_eq h, isSome_decodeNibbles_of_row hr, bne_iff_ne]
    exact hp

/-- Two rows differ on a bit that both masks keep. -/
theorem opcodeRows_disjoint : ∀ r₁ ∈ opcodeRows, ∀ r₂ ∈ opcodeRows,
    r₁.pattern &&& r₂.mask = r₂.pattern &&& r₁.mask → r₁ = r₂ := by decide +kernel

theorem row_unique (h₁ : r₁ ∈ opcodeRows) (h₂ : r₂ ∈ opcodeRows) (hw₁ : w &&& r₁.mask = r₁.pattern)
    (hw₂ : w &&& r₂.mask = r₂.pattern) : r₁ = r₂ :=
  opcodeRows_disjoint r₁ h₁ r₂ h₂ <| by
    rw [← hw₁, ← hw₂, BitVec.and_assoc, BitVec.and_assoc, BitVec.and_comm r₁.mask]

end

/-! ### The row of a decoded instruction -/

/-- The opcode word of a well-formed instruction matches the row with its mnemonic (R115, R124). -/
theorem rowMatch : ∀ i : Instr, Laws.RowMatch.Statement i
  | .scd n => Laws.RowMatch.scd n | .scu n => Laws.RowMatch.scu n | .cls => Laws.RowMatch.cls | .ret => Laws.RowMatch.ret
  | .scr => Laws.RowMatch.scr | .scl => Laws.RowMatch.scl | .low => Laws.RowMatch.low | .high => Laws.RowMatch.high
  | .jp a => Laws.RowMatch.jp a | .call a => Laws.RowMatch.call a
  | .seImm x b => Laws.RowMatch.seImm x b | .sneImm x b => Laws.RowMatch.sneImm x b
  | .seReg x y => Laws.RowMatch.seReg x y | .stRange x y => Laws.RowMatch.stRange x y
  | .ldRange x y => Laws.RowMatch.ldRange x y | .ldImm x b => Laws.RowMatch.ldImm x b
  | .addImm x b => Laws.RowMatch.addImm x b | .ldReg x y => Laws.RowMatch.ldReg x y
  | .orReg x y => Laws.RowMatch.orReg x y | .andReg x y => Laws.RowMatch.andReg x y
  | .xorReg x y => Laws.RowMatch.xorReg x y | .addReg x y => Laws.RowMatch.addReg x y
  | .subReg x y => Laws.RowMatch.subReg x y | .shr x y => Laws.RowMatch.shr x y
  | .subn x y => Laws.RowMatch.subn x y | .shl x y => Laws.RowMatch.shl x y
  | .sneReg x y => Laws.RowMatch.sneReg x y | .ldI a => Laws.RowMatch.ldI a | .jpV0 a => Laws.RowMatch.jpV0 a
  | .rnd x b => Laws.RowMatch.rnd x b | .drw x y n => Laws.RowMatch.drw x y n
  | .skp x => Laws.RowMatch.skp x | .sknp x => Laws.RowMatch.sknp x | .ldILong a => Laws.RowMatch.ldILong a
  | .plane m => Laws.RowMatch.plane m | .audio => Laws.RowMatch.audio | .ldVxDt x => Laws.RowMatch.ldVxDt x
  | .ldVxK x => Laws.RowMatch.ldVxK x | .ldDtVx x => Laws.RowMatch.ldDtVx x | .ldStVx x => Laws.RowMatch.ldStVx x
  | .addI x => Laws.RowMatch.addI x | .ldF x => Laws.RowMatch.ldF x | .ldHf x => Laws.RowMatch.ldHf x
  | .ldB x => Laws.RowMatch.ldB x | .stRegs x => Laws.RowMatch.stRegs x | .ldRegs x => Laws.RowMatch.ldRegs x

theorem row_of_decodeWord {w : Word} {i : Instr} (h : decodeWord w = some i) :
    ∃ r ∈ opcodeRows, r.mnemonic = i.mnemonic ∧ w &&& r.mask = r.pattern := by
  obtain ⟨hone, rfl⟩ := decodeWord_eq_some_iff.1 h
  obtain ⟨r, hr, hm, hacc⟩ := rowMatch i hone.wf
  exact ⟨r, hr, hm, eq_of_beq hacc⟩

/-- A word matches a row exactly when it is 0xF000 or decodes (R115, R118). -/
theorem matches_row_iff (w : Word) :
    (∃ r ∈ opcodeRows, w &&& r.mask = r.pattern) ↔ (w = longWord ∨ ∃ i, decodeWord w = some i) := by
  constructor
  · rintro ⟨r, hr, h⟩
    exact decodes_of_row hr h
  · rintro (rfl | ⟨i, hi⟩)
    · exact ⟨⟨"LD_I__NNNN", 0xFFFF, 0xF000⟩, by decide, rfl⟩
    · obtain ⟨r, hr, -, h⟩ := row_of_decodeWord hi
      exact ⟨r, hr, h⟩

end Sys2Proof

namespace Sys2Proof.Machine

/-- A word at PC that is not 0xF000 and does not decode is fetched as illegal (R118, R202). -/
theorem State.fetch_illegal {s : State} (hpc : s.pc.toNat + 1 < s.cfg.memSize)
    (hlong : s.word16 s.pc.toNat ≠ longWord) (hdec : decodeWord (s.word16 s.pc.toNat) = none) :
    s.fetch = .illegal (s.word16 s.pc.toNat) := by
  obtain ⟨rest, hb⟩ := State.fetchBytes_eq hpc
  rw [State.fetch, hb]
  exact decode_of_illegal hlong hdec

/-- The step of a core that runs and fetches an illegal word (R218, R701). -/
theorem step_illegal {s : State} {w : Word} (hrun : s.halted = none) (hf : s.beginTick.fetch = .illegal w) :
    step s = .next (s.beginTick.takeFault w .decodeError) := by
  simp only [step, hrun, hf, State.illegalFault]

/-- Settles O4: the rows are told apart by the bits two masks share; a row's kept nibbles lead the decoder to an
instruction, and a decoded instruction's word is its opcode word, which matches its row. -/
theorem everyWordMatchesAtMostOneRowOrIsIllegal : Obligations.EveryWordMatchesAtMostOneRowOrIsIllegal := by
  refine ⟨fun w r₁ r₂ => row_unique, matches_row_iff, fun w i => row_of_decodeWord, ?_⟩
  intro s hrun hpc hno
  obtain ⟨hlong, hdec⟩ := not_or.1 (mt (matches_row_iff _).2 fun ⟨r, hr, h⟩ => hno r hr h)
  have hnone : decodeWord (s.word16 s.pc.toNat) = none :=
    Option.eq_none_iff_forall_ne_some.2 fun i hi => hdec ⟨i, hi⟩
  exact step_illegal hrun (State.fetch_illegal (s := s.beginTick) hpc hlong hnone)

end Sys2Proof.Machine
end

section
/-! SUPPORT. The control transfers and the register skips (40_control.md sections 2 and 3): the state each
leaves, and the fault each can take. -/

namespace Sys2Proof.Machine

variable {s t : State} {i : Instr} {nnn : Nat}

/-! ### Operands and words -/

/-- An instruction of one word is what its opcode word, written as nibbles, reads as (R111, R116). -/
theorem Reads.of_opcodeOf {g x y n : Nat} (hw : opcodeOf i = ofNibbles g x y n) (hwf : i.wf = true)
    (hdata : dataWords i = []) : Reads g x y n i := by
  rw [Reads, ← hw]
  exact decodeWord_opcodeOf ⟨hwf, hdata⟩

theorem toNat_immAddr {n : Nat} (hn : n ≤ 0xFFFF) : (immAddr n).toNat = n := by
  rw [immAddr, BitVec.toNat_ofNat, Nat.mod_eq_of_lt (by omega)]

theorem eq_immByte_iff {b : Byte} {nn : Nat} (hnn : nn ≤ 255) : b = immByte nn ↔ b.toNat = nn := by
  rw [BitVec.toNat_eq, immByte, BitVec.toNat_ofNat, Nat.mod_eq_of_lt (by omega)]

/-- Settles O22: each skip is `skip_if` on its own comparison. -/
theorem registerSkipsJumpOneWholeInstruction : Obligations.RegisterSkipsJumpOneWholeInstruction := by
  intro s x y nn hnn
  have himm : s.reg x = immByte nn ↔ (s.reg x).toNat = nn := eq_immByte_iff hnn
  refine ⟨.of_opcodeOf rfl (decide_eq_true hnn) rfl, .intro rfl (beq_iff_eq.trans himm),
    .of_opcodeOf rfl (decide_eq_true hnn) rfl, .intro rfl (bne_iff_ne.trans (not_congr himm)),
    .of_opcodeOf rfl rfl rfl, .intro rfl beq_iff_eq, .of_opcodeOf rfl rfl rfl, .intro rfl bne_iff_ne⟩

/-! ### Jumps (R210, R213) -/

/-- Settles O18: both jumps only set PC, and NNN + V[0] fits 16 bits. -/
theorem jumpsSetPc : Obligations.JumpsSetPc := by
  intro s nnn hnnn
  have hv0 : (s.reg 0).toNat < 256 := (s.reg 0).isLt
  refine ⟨.of_opcodeOf rfl (decide_eq_true hnnn) rfl, .of_opcodeOf rfl (decide_eq_true hnnn) rfl,
    ⟨_, rfl, rfl, toNat_immAddr ?_, setPc_keeps s _ _⟩, ⟨_, rfl, rfl, toNat_immAddr ?_, setPc_keeps s _ _⟩⟩
  · omega
  · omega

/-! ### CALL and RET (R211, R212) -/

/-- CALL with room on the stack pushes PC and jumps (R211). -/
theorem exec_call (nnn : Nat) (h : s.sp.toNat < 16) :
    exec (.call nnn) s = .next (((s.push h).setPc (immAddr nnn)).setResult .executed) := by
  simp only [exec, execCall, dif_pos h, commit_eq, Effect.settle_executed]

/-- CALL with no room on the stack (R211, R704). -/
theorem call_faults (nnn : Nat) (h : ¬ s.sp.toNat < 16) : Faults (.call nnn) s .stackOverflow :=
  Faults.intro (by simp only [exec, execCall, dif_neg h])

theorem State.toNat_sp_push (h : s.sp.toNat < 16) : (s.push h).sp.toNat = s.sp.toNat + 1 := by
  rw [State.push_sp]; bv_omega

theorem State.getElem_stack_push (h : s.sp.toNat < 16) (k : Fin 16) :
    (s.push h).stack[k] = if k.val = s.sp.toNat then s.pc else s.stack[k] := by
  simp only [State.push_stack, Fin.getElem_fin, Vector.getElem_set, eq_comm]

/-- Setting PC and recording the result at the end of an instruction changes no further part. -/
theorem OnlyChanges.setPc_setResult {ps : List Part} (h : OnlyChanges ps s t) (p : Word) (r : TickResult) :
    OnlyChanges ps s ((t.setPc p).setResult r) :=
  h.trans ((setPc_keeps t p r).2.mono (List.nil_subset _))

/-- Settles O19: the entry at the old SP is the CALL's address. -/
theorem callPushesItsOwnAddress : Obligations.CallPushesItsOwnAddress := by
  intro s nnn hnnn
  refine ⟨.of_opcodeOf rfl (decide_eq_true hnnn) rfl, fun h => ?_, fun hfull => call_faults nnn (by omega)⟩
  exact ⟨_, exec_call nnn h, rfl, toNat_immAddr (by omega), State.toNat_sp_push h,
    State.getElem_stack_push h, fun _ _ => rfl, (onlyChanges_push s h).setPc_setResult _ _⟩

section
variable {k : Fin 16}

/-- The entry RET takes: the one below SP (R37, R212). -/
theorem State.pc_pop (hk : s.sp.toNat = k.val + 1) (h : s.sp.toNat - 1 < 16) : (s.pop h).pc = s.stack[k] := by
  simp only [State.pop_pc, hk, Nat.add_sub_cancel, Fin.getElem_fin]

theorem State.toNat_sp_pop (hk : s.sp.toNat = k.val + 1) (h : s.sp.toNat - 1 < 16) :
    (s.pop h).sp.toNat = k.val := by
  rw [State.pop_sp]; bv_omega

/-- RET from a stack that holds an entry (R212). -/
theorem exec_ret (hk : s.sp.toNat = k.val + 1) (h : s.sp.toNat - 1 < 16) :
    exec .ret s = commit .ret s (advance 2 (s.pop h)) := by
  have hne : s.sp ≠ 0 := by bv_omega
  simp only [exec, execRet, if_neg hne, dif_pos h]

/-- RET pops the top entry and resumes 2 after it (R212). -/
theorem ret_completes (hk : s.sp.toNat = k.val + 1) (hpc : s.stack[k].toNat + 2 ≤ 0xFFFF) :
    ∃ t, exec .ret s = .next t ∧ t.result = some .executed ∧ t.pc.toNat = s.stack[k].toNat + 2
      ∧ t.sp.toNat = k.val ∧ RegsKept [] s t ∧ OnlyChanges [.sp] s t := by
  have h : s.sp.toNat - 1 < 16 := by omega
  have hexec := exec_ret hk h
  rw [advance_of_le (by rw [State.pc_pop hk h]; exact hpc), State.pc_pop hk h] at hexec
  exact ⟨_, hexec, rfl, toNat_immAddr hpc, State.toNat_sp_pop hk h, fun _ _ => rfl,
    (onlyChanges_pop s h).setPc_setResult _ _⟩

/-- RET to an address past the top (R203, R706): the pop is discarded. -/
theorem ret_faults (hk : s.sp.toNat = k.val + 1) (hpc : 0xFFFF < s.stack[k].toNat + 2) :
    Faults .ret s .pcOverflow := by
  have h : s.sp.toNat - 1 < 16 := by omega
  refine Faults.intro ?_
  rw [exec_ret hk h, advance_of_gt (by rw [State.pc_pop hk h]; exact hpc)]

end

/-- Settles O20: the entry below SP is popped, and PC moves 2 past it. -/
theorem returnResumesAfterTheCall : Obligations.ReturnResumesAfterTheCall :=
  ⟨.of_opcodeOf rfl rfl rfl, fun _ => ⟨exec_ret_empty, fun _ hk => ⟨ret_completes hk, ret_faults hk⟩⟩⟩

/-- A part that is the same after all need not be listed. -/
theorem OnlyChanges.of_same {ps qs : List Part} (h : OnlyChanges qs s t)
    (hsame : ∀ p ∈ qs, p ∉ ps → p.same s t) : OnlyChanges ps s t := by
  intro p hp
  by_cases hq : p ∈ qs
  · exact hsame p hq hp
  · exact h p hq

/-- Settles O21: RET pops the entry CALL has pushed, which is the CALL's address. -/
theorem callThenReturnComesBackTwoFurther : Obligations.CallThenReturnComesBackTwoFurther := by
  intro s nnn h hpc
  have hstack : (s.push h).stack[(⟨s.sp.toNat, h⟩ : Fin 16)] = s.pc :=
    (State.getElem_stack_push h _).trans (if_pos rfl)
  obtain ⟨u, hu, hresult, hupc, husp, hregs, hparts⟩ :=
    ret_completes (s := ((s.push h).setPc (immAddr nnn)).setResult .executed) (k := ⟨s.sp.toNat, h⟩)
      (State.toNat_sp_push h) (by rw [State.setResult_stack, State.setPc_stack, hstack]; exact hpc)
  rw [State.setResult_stack, State.setPc_stack, hstack] at hupc
  have hsp : u.sp = s.sp := BitVec.eq_of_toNat_eq husp
  refine ⟨_, u, exec_call nnn h, hu, hresult, hupc, hsp, hregs, ?_⟩
  have hboth : OnlyChanges [.stack, .sp] s u :=
    ((onlyChanges_push s h).setPc_setResult _ _).trans (hparts.mono (by simp))
  refine hboth.of_same fun p hp hne => ?_
  rcases List.mem_pair.1 hp with rfl | rfl
  · exact absurd (List.mem_singleton_self _) hne
  · exact hsp

end Sys2Proof.Machine
end

section
/-! SUPPORT. The fetch and the step (40_control.md section 1): what a tick takes before it executes, the
instruction it runs, and that every tick of a core that runs answers a next state. -/

namespace Sys2Proof.Machine

variable {s : State} {i : Instr}

/-! ### The outcome of a step (R200) -/

/-- Every arm of `exec` closes its meaning with `commit`. -/
theorem exec_eq_commit (i : Instr) (s : State) : ∃ e, exec i s = commit i s e := by
  cases i <;> exact ⟨_, rfl⟩

theorem exec_answers_next (i : Instr) (s : State) : ∃ t, exec i s = .next t :=
  have ⟨_, he⟩ := exec_eq_commit i s
  ⟨_, he⟩

theorem step_of_halted {r : FaultRecord} (h : s.halted = some r) : step s = .fault r.kind := by
  simp only [step, h]

/-- A tick of a core that runs executes the instruction its fetch finds. -/
theorem step_of_fetch {rest : List Byte} (hrun : s.halted = none) (hf : s.beginTick.fetch = .instr i rest) :
    step s = exec i s.beginTick := by
  simp only [step, hrun, hf]

theorem step_noWord (hrun : s.halted = none) (hf : s.beginTick.fetch = .noWord) :
    step s = .next s.beginTick.fetchFault := by
  simp only [step, hrun, hf]

theorem step_noSecondWord (hrun : s.halted = none) (hf : s.beginTick.fetch = .noSecondWord) :
    step s = .next s.beginTick.secondWordFault := by
  simp only [step, hrun, hf]

theorem step_answers_next (hrun : s.halted = none) : ∃ t, step s = .next t := by
  cases hf : s.beginTick.fetch with
  | noWord => exact ⟨_, step_noWord hrun hf⟩
  | noSecondWord => exact ⟨_, step_noSecondWord hrun hf⟩
  | illegal w => exact ⟨_, step_illegal hrun hf⟩
  | instr i rest => rw [step_of_fetch hrun hf]; exact exec_answers_next i _

/-- Settles O9: a halted core answers its fault; otherwise the tick's fault is taken in a next state, or the
instruction answers one. -/
theorem stepAnswersNextUnlessHalted : Obligations.StepAnswersNextUnlessHalted := by
  refine ⟨fun s => ⟨fun ⟨_, h⟩ => (step_cases h).1, step_answers_next⟩, fun s r h => ?_, exec_answers_next⟩
  cases hh : s.halted with
  | some f => rw [step_of_halted hh] at h; cases h
  | none =>
    obtain ⟨t, ht⟩ := step_answers_next hh
    rw [ht] at h; cases h

/-! ### The beginning of a tick (R16, R600, R722) -/

theorem onlyChanges_beginTick (s : State) :
    OnlyChanges [.keys, .mailbox, .now, .rand8, .inputs, .ticks, .events] s s.beginTick := by
  intro p hp
  cases p
  case keys | mailbox | now | rand8 | inputs | ticks | events => simp at hp
  case mem => exact fun _ => rfl
  all_goals exact rfl

/-- The tick's fetch reads what the last tick left: the inputs the tick takes are no part of it. -/
theorem State.fetch_beginTick (s : State) : s.beginTick.fetch = s.fetch := rfl

theorem State.nextNow_of_le (h : s.now ≤ s.nextInput.now) : s.nextNow = s.nextInput.now := if_pos h

theorem State.nextNow_of_lt (h : s.nextInput.now < s.now) : s.nextNow = s.now := if_neg (not_le_of_gt h)

/-! ### The instruction at PC (R202, R402) -/

theorem State.fetch_of_decodeWord (hpc : s.pc.toNat + 1 < s.cfg.memSize)
    (hi : decodeWord (s.word16 s.pc.toNat) = some i) : ∃ rest, s.fetch = .instr i rest := by
  obtain ⟨rest, hb⟩ := State.fetchBytes_eq hpc
  exact ⟨rest, by rw [State.fetch, hb]; exact decode_of_decodeWord hi⟩

theorem State.fetch_of_longWord (hpc : s.pc.toNat + 3 < s.cfg.memSize)
    (hw : s.word16 s.pc.toNat = longWord) :
    s.fetch = .instr (.ldILong (s.word16 (s.pc.toNat + 2)).toNat) [] := by
  rw [State.fetch, State.fetchBytes_eq_four hpc]
  exact decode_of_longWord hw

theorem State.fetch_noWord (hpc : s.cfg.memSize ≤ s.pc.toNat + 1) : s.fetch = .noWord :=
  decode_of_short (by rw [State.length_fetchBytes]; omega)

/-- Settles O5: the step of the word fetched, and the tick's inputs field by field. -/
theorem stepRunsTheDecodedInstruction : Obligations.StepRunsTheDecodedInstruction := by
  intro s hrun
  refine ⟨fun i rest hd => step_of_fetch hrun (s.fetch_beginTick.trans hd), fun i hpc _ hi => ?_, fun hpc hw => ?_, rfl, fun _ _ => rfl,
    onlyChanges_beginTick s, State.nextNow_of_le, State.nextNow_of_lt, rfl, rfl, rfl, fun inp later h => ?_,
    fun h => ?_⟩
  · obtain ⟨rest, hf⟩ := State.fetch_of_decodeWord hpc hi
    exact step_of_fetch hrun (s.fetch_beginTick.trans hf)
  · rw [step_of_fetch hrun (s.fetch_beginTick.trans (State.fetch_of_longWord hpc hw))]
    exact congrArg (fun n => exec (.ldILong n) s.beginTick) (toNat_bigEndian _ _)
  · exact ⟨State.nextInput_of_cons h, by rw [State.beginTick_inputs, h]; rfl⟩
  · exact ⟨State.nextInput_of_nil h, by rw [State.beginTick_inputs, h]; rfl⟩

/-- Settles O7: the fetched bytes are those at PC, or there are fewer than two. -/
theorem fetchReadsTwoBytesOrFaults : Obligations.FetchReadsTwoBytesOrFaults := by
  intro s hrun
  refine ⟨fun _ => ⟨s.length_fetchBytes, fun _ => s.getElem?_fetchBytes, toNat_bigEndian _ _⟩, fun hpc => ?_⟩
  exact step_noWord hrun (s.fetch_beginTick.trans (State.fetch_noWord hpc))

end Sys2Proof.Machine
end

section
/-! SUPPORT. The register loads, arithmetic, logic, shifts and random (41_alu.md): the three forms their
completions take, V[X] alone, V[X] then VF as a flag, and V[X] then the logic reset of VF. -/

namespace Sys2Proof.Machine

variable {s : State} {i : Instr} {x : Reg} {b : Byte}

/-! ### The three forms of completion -/

/-- An instruction that writes V[X] and no flag. -/
theorem Advances.of_setV {R : State → Prop} (h : exec i s = commit i s (advance 2 (s.setV x b)))
    (hR : ∀ t : State, t.reg x = b → R t) :
    Advances i s 2 (fun t => R t ∧ RegsKept [x] s t ∧ OnlyChanges [] s t) := by
  refine Advances.intro h rfl fun p => ⟨hR _ (s.reg_setV_same x b), fun r hr => ?_,
    (onlyChanges_v s _).setPc_setResult p _⟩
  exact s.reg_setV_other b (List.ne_of_not_mem_cons hr)

/-- An instruction that writes V[X] and then VF as a flag (R32): with X = 0xF the flag stands. -/
theorem Advances.of_setV_setVF {c : Bool} {value : Nat} {flag : Prop}
    (h : exec i s = commit i s (advance 2 ((s.setV x b).setVF c))) (hb : b.toNat = value) (hc : c = true ↔ flag) :
    Advances i s 2 (fun t => (x ≠ 15 → (t.reg x).toNat = value) ∧ (flag → t.reg 15 = 1) ∧ (¬ flag → t.reg 15 = 0)
      ∧ RegsKept [x, 15] s t ∧ OnlyChanges [] s t) := by
  have hreg (p : Word) (r : Reg) : ((((s.setV x b).setVF c).setPc p).setResult .executed).reg r
      = if r = 15 then flagByte c else (s.setV x b).reg r := (s.setV x b).reg_setVF r c
  refine Advances.intro h rfl fun p => ⟨fun hx => ?_, fun hflag => ?_, fun hflag => ?_, fun r hr => ?_,
    ((onlyChanges_v s _).trans (onlyChanges_v _ _)).setPc_setResult p _⟩
  · rw [hreg, if_neg hx, State.reg_setV_same, hb]
  · rw [hreg, if_pos rfl, hc.2 hflag]; rfl
  · rw [hreg, if_pos rfl, Bool.eq_false_iff.2 (mt hc.1 hflag)]; rfl
  · obtain ⟨hx, h15⟩ := not_or.1 (mt List.mem_pair.2 hr)
    rw [hreg, if_neg h15, State.reg_setV_other _ _ hx]

/-- An instruction that writes V[X] and ends with the logic reset of VF (R304). -/
theorem Advances.of_setV_logicReset {R : State → Prop}
    (h : exec i s = commit i s (advance 2 (s.setV x b).logicReset)) (hR : ∀ t : State, t.reg x = b → R t) :
    Advances i s 2 (fun t => (s.cfg.logicVfReset = true → t.reg 15 = 0)
      ∧ (¬ (s.cfg.logicVfReset = true ∧ x = 15) → R t)
      ∧ (∀ r, r ≠ x → ¬ (s.cfg.logicVfReset = true ∧ r = 15) → t.reg r = s.reg r) ∧ OnlyChanges [] s t) := by
  have hreg (p : Word) (r : Reg) : (((s.setV x b).logicReset.setPc p).setResult .executed).reg r
      = if r = 15 ∧ s.cfg.logicVfReset = true then 0 else (s.setV x b).reg r :=
    (s.setV x b).reg_logicReset r
  refine Advances.intro h (State.logicReset_pc _) fun p => ⟨fun hc => ?_, fun hx => ?_, fun r hr hvf => ?_,
    ((onlyChanges_v s _).trans (onlyChanges_logicReset _)).setPc_setResult p _⟩
  · rw [hreg, if_pos ⟨rfl, hc⟩]
  · exact hR _ (by rw [hreg, if_neg (mt And.symm hx), State.reg_setV_same])
  · rw [hreg, if_neg (mt And.symm hvf), State.reg_setV_other _ _ hr]

/-! ### Immediates and flags (R113, R300) -/

theorem toNat_immByte {nn : Nat} (hnn : nn ≤ 255) : (immByte nn).toNat = nn :=
  (eq_immByte_iff hnn).1 rfl

theorem carryOut_iff {a b : Byte} : carryOut a b = true ↔ 255 < a.toNat + b.toNat := decide_eq_true_iff

theorem noBorrow_iff {a b : Byte} : noBorrow a b = true ↔ b.toNat ≤ a.toNat := decide_eq_true_iff

theorem lowBitOut_iff {a : Byte} : lowBitOut a = true ↔ a.toNat % 2 = 1 := by
  rw [lowBitOut, BitVec.getLsbD, Nat.testBit_zero, decide_eq_true_iff]

theorem highBitOut_iff {a : Byte} : highBitOut a = true ↔ 128 ≤ a.toNat := by
  rw [highBitOut, ← BitVec.msb_eq_getLsbD_last, BitVec.msb_eq_decide, decide_eq_true_iff]

/-! ### Byte arithmetic modulo 256 -/

/-- A difference that wraps (R309, R311), in the spec's form. -/
theorem toNat_sub_byte (a b : Byte) : (a - b).toNat = (a.toNat + 256 - b.toNat) % 256 := by
  rw [BitVec.toNat_sub]; omega

theorem toNat_shiftRight_one (a : Byte) : (a >>> 1).toNat = a.toNat / 2 := by
  rw [BitVec.toNat_ushiftRight, Nat.shiftRight_one]

theorem toNat_shiftLeft_one (a : Byte) : (a <<< 1).toNat = a.toNat * 2 % 256 := by
  rw [BitVec.toNat_shiftLeft, Nat.shiftLeft_eq]

/-! ### The obligations -/

/-- Settles O23: the three loads write V[X] and no flag. -/
theorem registerLoadsAndAddImmediate : Obligations.RegisterLoadsAndAddImmediate := by
  intro s x y nn hnn
  refine ⟨.of_opcodeOf rfl (decide_eq_true hnn) rfl, .of_setV rfl fun t ht => ?_,
    .of_opcodeOf rfl (decide_eq_true hnn) rfl, .of_setV rfl fun t ht => ?_,
    .of_opcodeOf rfl rfl rfl, .of_setV rfl fun t ht => ht⟩
  · rw [ht, toNat_immByte hnn]
  · rw [ht, BitVec.toNat_add, toNat_immByte hnn]

/-- Settles O24: each result is bitwise, and the logic reset comes after it. -/
theorem logicInstructionsCombineBitwise : Obligations.LogicInstructionsCombineBitwise := by
  intro s x y
  refine ⟨.of_opcodeOf rfl rfl rfl, .of_setV_logicReset rfl fun t ht k _ => ?_,
    .of_opcodeOf rfl rfl rfl, .of_setV_logicReset rfl fun t ht k _ => ?_,
    .of_opcodeOf rfl rfl rfl, .of_setV_logicReset rfl fun t ht k _ => ?_⟩
  · rw [ht, BitVec.getLsbD_or]
  · rw [ht, BitVec.getLsbD_and]
  · rw [ht, BitVec.getLsbD_xor]

/-- Settles O25: the sum wraps, and the carry is the flag. -/
theorem addSetsVfOnCarry : Obligations.AddSetsVfOnCarry := fun _ _ _ =>
  ⟨.of_opcodeOf rfl rfl rfl, .of_setV_setVF rfl (BitVec.toNat_add _ _) carryOut_iff⟩

/-- Settles O26: the two differences wrap, and no borrow is the flag. -/
theorem subtractionsSetVfOnNoBorrow : Obligations.SubtractionsSetVfOnNoBorrow := fun _ _ _ =>
  ⟨.of_opcodeOf rfl rfl rfl, .of_setV_setVF rfl (toNat_sub_byte _ _) noBorrow_iff,
    .of_opcodeOf rfl rfl rfl, .of_setV_setVF rfl (toNat_sub_byte _ _) noBorrow_iff⟩

/-- Settles O27: the shifts halve and double VY, and the bit shifted out is the flag. -/
theorem shiftsTakeVyAndSetVfToTheBitShiftedOut : Obligations.ShiftsTakeVyAndSetVfToTheBitShiftedOut := fun _ _ _ =>
  ⟨.of_opcodeOf rfl rfl rfl, .of_setV_setVF rfl (toNat_shiftRight_one _) lowBitOut_iff,
    .of_opcodeOf rfl rfl rfl, .of_setV_setVF rfl (toNat_shiftLeft_one _) highBitOut_iff⟩

/-- Settles O28: the byte written is the tick's draw under the mask. -/
theorem randomIsTheDrawUnderTheMask : Obligations.RandomIsTheDrawUnderTheMask := by
  intro s x nn hnn
  refine ⟨.of_opcodeOf rfl (decide_eq_true hnn) rfl, .of_setV rfl fun t ht k hk => ?_⟩
  rw [ht, BitVec.getLsbD_and, immByte, BitVec.getLsbD_ofNat, decide_eq_true hk, Bool.true_and]

end Sys2Proof.Machine
end

section
/-! SUPPORT. The instructions that set I and those that move bytes between registers and memory
(42_memory_ops.md): what a load and a store of a range leave, I after them, and the long load. -/

namespace Sys2Proof.Machine

variable {s : State} {i : Instr} {x y : Reg} {k n : Nat}

/-! ### The registers of a range (R409, R410) -/

theorem rangeLength_eq (x y : Reg) : rangeLength x y = max x.val y.val - min x.val y.val + 1 := by
  unfold rangeLength
  split
  · next h => have hle : x.val ≤ y.val := h; omega
  · next h => have hlt : ¬ x.val ≤ y.val := h; omega

/-- Register number k of a range, by its number: counted up from X when X ≤ Y, and down otherwise. -/
theorem rangeReg_eq_of_val {r : Reg} (hk : k < rangeLength x y)
    (hr : (x ≤ y → r.val = x.val + k) ∧ (y < x → r.val + k = x.val)) : rangeReg x y k = r := by
  refine Fin.ext ((val_rangeReg x y hk).trans ?_)
  split
  · next h => exact (hr.1 h).symm
  · next h => have hdown := hr.2 (not_le.1 h); omega

/-- The registers of a range lie between its two ends. -/
theorem rangeReg_bounds (hk : k < rangeLength x y) :
    min x.val y.val ≤ (rangeReg x y k).val ∧ (rangeReg x y k).val ≤ max x.val y.val := by
  rw [val_rangeReg x y hk]
  rw [rangeLength_eq] at hk
  split
  · next h => have hle : x.val ≤ y.val := h; omega
  · next h => have hlt : ¬ x.val ≤ y.val := h; omega

theorem rangeReg_zero_eq {r : Reg} (hr : r.val ≤ x.val) : rangeReg 0 x r.val = r :=
  Fin.ext (rangeReg_zero x hr)

/-! ### Stores: the bytes written and the bytes outside -/

theorem State.readByte_writeBytes_inside (s : State) (a : Nat) {bs : List Byte} (hk : k < bs.length) :
    (s.writeBytes a bs).readByte (a + k) = bs.getD k 0 := by
  rw [State.readByte_writeBytes, if_pos (by omega), Nat.add_sub_cancel_left]

theorem State.readByte_writeBytes_outside (s : State) {a c : Nat} {bs : List Byte}
    (hc : c < a ∨ a + bs.length ≤ c) : (s.writeBytes a bs).readByte c = s.readByte c := by
  rw [State.readByte_writeBytes, if_neg (by omega)]

/-- A stored range holds its k-th register at the k-th address. -/
theorem State.readByte_storeRange (s : State) (a : Nat) (hk : k < rangeLength x y) :
    (s.writeBytes a (s.regs (regRange x y))).readByte (a + k) = s.reg (rangeReg x y k) := by
  rw [State.readByte_writeBytes_inside s a (by rw [State.length_regs, length_regRange]; exact hk),
    State.getD_regs_range s x y hk]

theorem State.readByte_storeRange_outside (s : State) {a c : Nat} (hc : c < a ∨ a + rangeLength x y ≤ c) :
    (s.writeBytes a (s.regs (regRange x y))).readByte c = s.readByte c :=
  s.readByte_writeBytes_outside (by rw [State.length_regs, length_regRange]; exact hc)

/-! ### Loads: the registers written and the registers outside -/

/-- A loaded range holds the k-th byte in its k-th register. -/
theorem State.reg_loadRange (s : State) (a : Nat) (hk : k < rangeLength x y) (hn : k < n) :
    (s.setRegs (regRange x y) (s.readBytes a n)).reg (rangeReg x y k) = s.readByte (a + k) := by
  rw [State.reg_setRegs_range s x y _ hk (by rw [State.length_readBytes]; exact hn),
    State.getD_readBytes s a n k hn]

theorem State.reg_loadRange_outside (s : State) {r : Reg} (bs : List Byte)
    (hr : r.val < min x.val y.val ∨ max x.val y.val < r.val) :
    (s.setRegs (regRange x y) bs).reg r = s.reg r := by
  refine State.reg_setRegs_range_other s x y r bs fun k hk e => ?_
  obtain ⟨hlo, hhi⟩ := rangeReg_bounds hk
  rw [e] at hlo hhi
  omega

/-! ### I after FX55 and FX65 -/

@[simp] theorem State.readByte_stepI (s : State) (n a : Nat) : (s.stepI n).readByte a = s.readByte a :=
  State.readByte_congr (State.stepI_mem s n) (State.stepI_cfg s n) a

section
variable {u : State} (hcfg : u.cfg = s.cfg) (hi : u.i = s.i) (n : Nat)
include hcfg hi

/-- `stepI` after an update `u` of `s` that keeps I and the parameters. -/
theorem State.toNat_stepI_i (hc : s.cfg.loadStoreIncrementsI = true) :
    (u.stepI n).i.toNat = (s.i.toNat + n) % 65536 := by
  rw [State.stepI_i, if_pos (by rw [hcfg, hc]), BitVec.toNat_ofNat, State.base, hi]

theorem State.stepI_i_of_false (hc : s.cfg.loadStoreIncrementsI = false) : (u.stepI n).i = s.i := by
  rw [State.stepI_i, if_neg (by rw [hcfg, hc]; decide), hi]

end

theorem stepIWrites_subset (c : Config) : stepIWrites c ⊆ [.i] := by
  unfold stepIWrites
  split
  · exact List.Subset.refl _
  · exact List.nil_subset _

/-! ### The obligations on stores and loads -/

/-- Settles O32: V0..VX is stored as the range from V0 up, and then I moves. -/
theorem storeRegistersWritesV0ToVX : Obligations.StoreRegistersWritesV0ToVX := by
  intro s x
  refine ⟨.of_opcodeOf rfl rfl rfl, .intro rfl (Nat.succ_pos _) (State.stepI_pc _ _) fun p =>
    ⟨fun r hr => ?_, fun a ha => ?_,
      State.toNat_stepI_i (u := s.writeBytes _ _) rfl rfl _,
      State.stepI_i_of_false (u := s.writeBytes _ _) rfl rfl _, fun r _ => State.reg_stepI _ _ r,
      ((target_onlyChanges s (.stRegs x)).mono ?_).setPc_setResult p _⟩⟩
  · have hk : r.val < rangeLength 0 x := by rw [rangeLength_zero]; omega
    refine (State.readByte_stepI _ _ _).trans ((s.readByte_storeRange s.base hk).trans ?_)
    rw [rangeReg_zero_eq hr]
  · refine (State.readByte_stepI _ _ a).trans (s.readByte_storeRange_outside ?_)
    rw [rangeLength_zero]
    exact ha
  · exact List.cons_subset_cons _ (stepIWrites_subset s.cfg)

/-- Settles O33: V0..VX is loaded as the range from V0 up, and then I moves. -/
theorem loadRegistersReadsV0ToVX : Obligations.LoadRegistersReadsV0ToVX := by
  intro s x
  refine ⟨.of_opcodeOf rfl rfl rfl, .intro rfl (Nat.succ_pos _) ?_ fun p =>
    ⟨fun r hr => ?_, fun r hr => ?_,
      State.toNat_stepI_i (State.setRegs_cfg _ _ _) (State.setRegs_i _ _ _) _,
      State.stepI_i_of_false (State.setRegs_cfg _ _ _) (State.setRegs_i _ _ _) _,
      ((target_onlyChanges s (.ldRegs x)).mono (stepIWrites_subset s.cfg)).setPc_setResult p _⟩⟩
  · rw [State.stepI_pc, State.setRegs_pc]
  · have hk : r.val < rangeLength 0 x := by rw [rangeLength_zero]; omega
    have h := s.reg_loadRange s.base hk (n := x.val + 1) (by omega)
    rw [rangeReg_zero_eq hr] at h
    exact (State.reg_stepI _ _ r).trans h
  · exact (State.reg_stepI _ _ r).trans (s.reg_loadRange_outside _ (.inr (max_lt (Nat.zero_lt_of_lt hr) hr)))

/-- Settles O34: the range is stored in its order, its first register at I. -/
theorem storeRangeWritesInTheNamedOrder : Obligations.StoreRangeWritesInTheNamedOrder := by
  intro s x y n isRegister
  have hn : rangeLength x y = n := rangeLength_eq x y
  rw [← hn]
  exact ⟨.of_opcodeOf rfl rfl rfl, .intro rfl (rangeLength_pos x y) rfl fun p =>
    ⟨fun k r hk hr => rangeReg_eq_of_val hk hr ▸ s.readByte_storeRange s.base hk,
      fun a ha => s.readByte_storeRange_outside ha, fun _ _ => rfl,
      (onlyChanges_writeBytes s _ _).setPc_setResult p _⟩⟩

/-- Settles O35: the range is loaded in its order, its first register from I. -/
theorem loadRangeReadsInTheNamedOrder : Obligations.LoadRangeReadsInTheNamedOrder := by
  intro s x y n isRegister
  have hn : rangeLength x y = n := rangeLength_eq x y
  rw [← hn]
  exact ⟨.of_opcodeOf rfl rfl rfl, .intro rfl (rangeLength_pos x y) (State.setRegs_pc _ _ _) fun p =>
    ⟨fun k r hk hr => rangeReg_eq_of_val hk hr ▸ s.reg_loadRange s.base hk hk,
      fun r hr => s.reg_loadRange_outside _ hr, (onlyChanges_setRegs s _ _).setPc_setResult p _⟩⟩

/-- Settles O31: the three digits are the bytes written, each below 10. -/
theorem decimalStoreWritesThreeDigits : Obligations.DecimalStoreWritesThreeDigits := by
  intro s x
  have hbyte : (s.reg x).toNat < 256 := (s.reg x).isLt
  have hdigit (k : Nat) (hk : k < 3) := s.readByte_writeBytes_inside s.base (bs := decimalDigits (s.reg x)) hk
  refine ⟨.of_opcodeOf rfl rfl rfl, .intro rfl (by decide) rfl fun p =>
    ⟨?_, ?_, ?_, fun a ha => s.readByte_writeBytes_outside ha, fun _ _ => rfl,
      (onlyChanges_writeBytes s _ _).setPc_setResult p _⟩⟩
  · exact (congrArg BitVec.toNat (hdigit 0 (by decide))).trans (toNat_immByte (by omega))
  · exact (congrArg BitVec.toNat (hdigit 1 (by decide))).trans (toNat_immByte (by omega))
  · exact (congrArg BitVec.toNat (hdigit 2 (by decide))).trans (toNat_immByte (by omega))

/-! ### The instructions that set I -/

/-- An instruction that writes I and then advances. -/
theorem Advances.of_setI {a : Word} {value : Nat} (h : exec i s = commit i s (advance n (s.setI a)))
    (ha : a.toNat = value) :
    Advances i s n (fun t => t.i.toNat = value ∧ RegsKept [] s t ∧ OnlyChanges [.i] s t) :=
  Advances.intro h rfl fun p => ⟨ha, fun _ _ => rfl, (onlyChanges_setI s a).setPc_setResult p _⟩

/-- The fonts lie below 0x200, so a glyph's address is not cut to 16 bits (R43, R404). -/
theorem toNat_smallGlyph {c : Config} (hc : c.fontSmallBase + 80 ≤ 0x200) (b : Byte) :
    (smallGlyph c b).toNat = c.fontSmallBase + 5 * (b.toNat % 16) :=
  toNat_immAddr (n := c.fontSmallBase + 5 * (b.toNat % 16)) (by omega)

theorem toNat_bigGlyph {c : Config} (hc : c.fontBigBase + 160 ≤ 0x200) (b : Byte) :
    (bigGlyph c b).toNat = c.fontBigBase + 10 * (b.toNat % 16) :=
  toNat_immAddr (n := c.fontBigBase + 10 * (b.toNat % 16)) (by omega)

/-- Settles O29: each of the four writes I, and its value fits 16 bits or wraps as the rule says. -/
theorem instructionsThatSetI : Obligations.InstructionsThatSetI := by
  intro s x nnn hnnn hsmall hbig
  exact ⟨.of_opcodeOf rfl (decide_eq_true hnnn) rfl, .of_setI rfl (toNat_immAddr (by omega)),
    .of_opcodeOf rfl rfl rfl, .of_setI rfl (BitVec.toNat_ofNat _ _),
    .of_opcodeOf rfl rfl rfl, .of_setI rfl (toNat_smallGlyph hsmall _),
    .of_opcodeOf rfl rfl rfl, .of_setI rfl (toNat_bigGlyph hbig _)⟩

/-! ### The long load (R402) -/

theorem exec_ldILong {nnnn : Nat} (h : s.pc.toNat + 3 < s.cfg.memSize) :
    exec (.ldILong nnnn) s = commit (.ldILong nnnn) s (advance 4 (s.setI (immAddr nnnn))) :=
  congrArg (commit _ s) (State.access_of_admits _ ((s.admits_iff _ 2).2 (.inr h)))

theorem ldILong_faults {nnnn : Nat} (h : s.cfg.memSize ≤ s.pc.toNat + 3) :
    Faults (.ldILong nnnn) s (.memFault (max (s.pc.toNat + 2) s.cfg.memSize)) :=
  Faults.intro (congrArg (commit _ s) (State.access_of_not _ (by simp [State.admits]; omega)))

/-- Settles O30: the second word is the operand, and its access is checked before I is written. -/
theorem longLoadSetsIFromTheSecondWord : Obligations.LongLoadSetsIFromTheSecondWord := by
  intro s hi lo rest nnnn
  have hnnnn : (bigEndian hi lo).toNat = nnnn := toNat_bigEndian hi lo
  have hle : nnnn ≤ 0xFFFF := hnnnn ▸ Nat.le_of_lt_succ (bigEndian hi lo).isLt
  refine ⟨?_, fun hpc => .of_setI (exec_ldILong hpc) (toNat_immAddr hle), ldILong_faults⟩
  rw [← hnnnn]
  exact decode_of_longWord (by decide)

/-- 0xF000 with fewer than two bytes after it (R402). -/
theorem decode_noSecondWord {b0 b1 : Byte} {rest : List Byte} (hw : bigEndian b0 b1 = longWord)
    (hshort : rest.length < 2) : decode (b0 :: b1 :: rest) = .noSecondWord := by
  match rest, hshort with
  | [], _ => simp only [decode, if_pos hw]
  | [_], _ => simp only [decode, if_pos hw]
  | _ :: _ :: _, h => simp at h

theorem State.fetch_noSecondWord (hpc : s.pc.toNat + 1 < s.cfg.memSize) (hw : s.word16 s.pc.toNat = longWord)
    (hend : s.cfg.memSize ≤ s.pc.toNat + 3) : s.fetch = .noSecondWord := by
  obtain ⟨rest, hb⟩ := State.fetchBytes_eq hpc
  have hlen : rest.length + 2 = min 4 (s.cfg.memSize - s.pc.toNat) := by
    rw [← s.length_fetchBytes, hb]; rfl
  rw [State.fetch, hb]
  exact decode_noSecondWord hw (by omega)

/-- Settles O8: the fetch finds 0xF000 and no second word. -/
theorem longLoadWithoutItsSecondWordFaults : Obligations.LongLoadWithoutItsSecondWordFaults := by
  intro s hrun hpc hw hend
  exact step_noSecondWord hrun (s.fetch_beginTick.trans (State.fetch_noSecondWord hpc hw hend))

end Sys2Proof.Machine
end

section
/-! SUPPORT. The compositor (43_display.md sections 2, 3 and 7): the active planes after an operation on them, the
rows a sprite covers, and the pixel loop of R509 as a walk over the pixels the sprite's bits land on. -/

namespace Sys2Proof.Machine

/-! ### Bitmaps by their pixels -/

theorem length_of_bitmapFits {m : Mode} {b : Bitmap} (h : bitmapFits m b = true) : b.length = height m := by
  rw [bitmapFits, Bool.and_eq_true, beq_iff_eq] at h
  exact h.1

/-- Bitmaps of one height are equal when every pixel is. -/
theorem bitmap_ext {b b' : Bitmap} (hlen : b.length = b'.length)
    (h : ∀ x y, y < b'.length → pixel b x y = pixel b' x y) : b = b' := by
  refine List.ext_getElem hlen fun y hy hy' => BitVec.eq_of_getLsbD_eq fun x _ => ?_
  have hxy := h x y hy'
  rwa [pixel, pixel, List.getD_eq_getElem _ _ hy, List.getD_eq_getElem _ _ hy'] at hxy

/-- No bit of a sprite's row lies beyond the width. -/
theorem lt_width_of_getLsbD_spriteRow {m : Mode} {bytes : List Byte} {wide : Bool} {x0 y0 x y : Nat}
    (h : (spriteRow m bytes wide x0 y0 y).getLsbD x = true) : x < width m := by
  rw [← spriteRow_fits, BitVec.getLsbD_and, getLsbD_fullRow, Bool.and_eq_true, decide_eq_true_eq] at h
  exact h.2

/-- The collision by pixels: some pixel is 1 under a sprite bit 1 (R508). -/
theorem collides_iff {m : Mode} {bytes : List Byte} {wide : Bool} {x0 y0 : Nat} {b : Bitmap} :
    collides m bytes wide x0 y0 b = true ↔ ∃ x y, x < width m ∧ y < height m ∧ pixel b x y = true
      ∧ (spriteRow m bytes wide x0 y0 y).getLsbD x = true := by
  simp only [collides, List.any_eq_true, List.mem_range, bne_iff_ne]
  constructor
  · rintro ⟨y, hy, hrow⟩
    obtain ⟨x, -, hx⟩ : ∃ x, x < 128 ∧ (b.getD y 0 &&& spriteRow m bytes wide x0 y0 y).getLsbD x = true := by
      by_contra! hnone
      exact hrow (BitVec.eq_of_getLsbD_eq fun x hx => by simpa using hnone x hx)
    rw [BitVec.getLsbD_and, Bool.and_eq_true] at hx
    exact ⟨x, y, lt_width_of_getLsbD_spriteRow hx.2, hy, hx⟩
  · rintro ⟨x, y, -, hy, hpixel, hsprite⟩
    refine ⟨y, hy, fun hzero => ?_⟩
    have hbit := congrArg (·.getLsbD x) hzero
    rw [BitVec.getLsbD_and, hsprite, Bool.and_true] at hbit
    simp only [BitVec.ofNat_eq_ofNat, BitVec.getLsbD_zero] at hbit
    exact Bool.false_ne_true (hbit.symm.trans hpixel)

/-- XOR is its own inverse (R542). -/
theorem drawn_drawn {m : Mode} {b : Bitmap} (h : bitmapFits m b = true) (bytes : List Byte) (wide : Bool)
    (x0 y0 : Nat) : drawn m bytes wide x0 y0 (drawn m bytes wide x0 y0 b) = b := by
  have hlen := length_of_bitmapFits h
  refine bitmap_ext ((length_ofRows m _).trans hlen.symm) fun x y hy => ?_
  rw [hlen] at hy
  rw [pixel_drawn _ _ hy, pixel_drawn _ _ hy, Bool.xor_assoc, Bool.xor_self, Bool.xor_false]

/-! ### The pixel loop (R509) -/

/-- Flipping pixel (x, y) changes that pixel and no other. -/
theorem pixel_flipPixel {b : Bitmap} {x y : Nat} (hx : x < 128) (hy : y < b.length) (x' y' : Nat) :
    pixel (flipPixel x y b) x' y' = (pixel b x' y' ^^ decide ((x', y') = (x, y))) := by
  have hbit : (1#128 <<< x).getLsbD x' = decide (x' = x) := by
    rw [← BitVec.twoPow_eq, BitVec.getLsbD_twoPow, decide_eq_true hx, Bool.true_and, decide_eq_decide, eq_comm]
  have hrow : (flipPixel x y b).getD y' 0 = if y' = y then b.getD y' 0 ^^^ (1#128 <<< x) else b.getD y' 0 := by
    rw [flipPixel, List.getD_eq_getElem?_getD, List.getD_eq_getElem?_getD, List.getElem?_mapIdx]
    rcases Nat.lt_or_ge y' b.length with hy' | hy'
    · rw [List.getElem?_eq_getElem hy']; rfl
    · rw [List.getElem?_eq_none hy', if_neg (by omega)]; rfl
  rw [pixel, hrow, pixel]
  by_cases h : y' = y
  · rw [if_pos h, BitVec.getLsbD_xor, hbit, h]
    simp
  · simp [h]

/-- One flip of the loop, with the collision accumulated. -/
def visitPixel (acc : Bitmap × Bool) (xy : Nat × Nat) : Bitmap × Bool :=
  (flipPixel xy.1 xy.2 acc.1, acc.2 || pixel acc.1 xy.1 xy.2)

/-- The display pixels the 1 bits of a sprite land on (R504), in the order of R509's loops. -/
def spriteLandings (m : Mode) (bytes : List Byte) (wide : Bool) (x0 y0 : Nat) : List (Nat × Nat) :=
  ((List.range (spriteRows wide bytes) ×ˢ List.range (spriteCols wide)).filter fun rc =>
    spriteBit bytes wide rc.1 rc.2).map fun rc => ((x0 + rc.2) % width m, (y0 + rc.1) % height m)

/-- The two loops of R509 visit the landings. -/
theorem writeSpriteLoop_eq_foldl (m : Mode) (bytes : List Byte) (wide : Bool) (x0 y0 : Nat) (b : Bitmap) :
    writeSpriteLoop m bytes wide x0 y0 b = (spriteLandings m bytes wide x0 y0).foldl visitPixel (b, false) := by
  simp only [spriteLandings, SProd.sprod, List.product, List.foldl_map, List.foldl_filter, List.foldl_flatMap]
  rfl

/-- Visiting distinct pixels flips each of them once, and each is found as it was at the start. -/
theorem foldl_visitPixel {ps : List (Nat × Nat)} (hnodup : ps.Nodup) (b : Bitmap) (e : Bool)
    (hin : ∀ p ∈ ps, p.1 < 128 ∧ p.2 < b.length) :
    (ps.foldl visitPixel (b, e)).1.length = b.length
      ∧ (∀ x y, pixel (ps.foldl visitPixel (b, e)).1 x y = (pixel b x y ^^ decide ((x, y) ∈ ps)))
      ∧ ((ps.foldl visitPixel (b, e)).2 = true ↔ e = true ∨ ∃ p ∈ ps, pixel b p.1 p.2 = true) := by
  induction ps generalizing b e with
  | nil => simp
  | cons p ps ih =>
    obtain ⟨hp, hps⟩ := List.nodup_cons.1 hnodup
    obtain ⟨⟨hx, hy⟩, hin⟩ := List.forall_mem_cons.1 hin
    have hflip := pixel_flipPixel hx hy
    have hlen : (flipPixel p.1 p.2 b).length = b.length := List.length_mapIdx
    obtain ⟨ihlen, ihpixel, ihhit⟩ := ih hps (flipPixel p.1 p.2 b) (e || pixel b p.1 p.2) (by rwa [hlen])
    rw [List.foldl_cons, visitPixel]
    refine ⟨ihlen.trans hlen, fun x y => ?_, ?_⟩
    · rw [ihpixel, hflip]
      by_cases h : (x, y) = p
      · simp [h, hp]
      · simp [h]
    · have hkept : ∀ q ∈ ps, pixel (flipPixel p.1 p.2 b) q.1 q.2 = pixel b q.1 q.2 := fun q hq => by
        rw [hflip, decide_eq_false (ne_of_mem_of_not_mem hq hp), Bool.xor_false]
      rw [ihhit, Bool.or_eq_true, or_assoc, List.exists_mem_cons_iff]
      exact or_congr_right (or_congr_right (exists_congr fun q => and_congr_right fun hq => by rw [hkept q hq]))

/-- Column c lands on x when c is the column over x, and rows alike (R504). -/
theorem wrap_eq_iff {w a x c : Nat} (ha : a < w) (hx : x < w) (hc : c < w) :
    (a + c) % w = x ↔ c = (x + w - a) % w := by
  have hland : (a + c) % w = if a + c < w then a + c else a + c - w := by
    split
    · next h => exact Nat.mod_eq_of_lt h
    · next h => rw [Nat.mod_eq_sub_mod (not_lt.1 h), Nat.mod_eq_of_lt (by omega)]
  have hover : (x + w - a) % w = if a ≤ x then x - a else x + w - a := by
    split
    · next h => rw [Nat.mod_eq_sub_mod (by omega), Nat.mod_eq_of_lt (by omega)]; omega
    · next h => exact Nat.mod_eq_of_lt (by omega)
  rw [hland, hover]
  split <;> split <;> omega

section
variable {m : Mode} {bytes : List Byte} {wide : Bool} {x0 y0 : Nat} (hx0 : x0 < width m) (hy0 : y0 < height m)
  (hbytes : bytes.length ≤ 32)

theorem spriteCols_le_width (m : Mode) (wide : Bool) : spriteCols wide ≤ width m := by
  cases m <;> cases wide <;> decide

include hbytes in
theorem spriteRows_le_height (m : Mode) (wide : Bool) : spriteRows wide bytes ≤ height m := by
  have hheight : 32 ≤ height m := by cases m <;> decide
  unfold spriteRows
  split <;> omega

include hx0 hy0 hbytes

/-- The landings are the display pixels under a sprite bit 1. -/
theorem mem_spriteLandings {x y : Nat} : (x, y) ∈ spriteLandings m bytes wide x0 y0 ↔
    x < width m ∧ y < height m ∧ (spriteRow m bytes wide x0 y0 y).getLsbD x = true := by
  have hcols := spriteCols_le_width m wide
  have hrows := spriteRows_le_height hbytes m wide
  simp only [spriteLandings, List.mem_map, List.mem_filter, List.mem_product, List.mem_range, Prod.exists,
    Prod.mk.injEq]
  constructor
  · rintro ⟨r, c, ⟨⟨hr, hc⟩, hbit⟩, rfl, rfl⟩
    have hx := Nat.mod_lt (x0 + c) (width_pos m)
    have hy := Nat.mod_lt (y0 + r) (height_pos m)
    refine ⟨hx, hy, ?_⟩
    rw [getLsbD_spriteRow m hx, ← (wrap_eq_iff hx0 hx (hc.trans_le hcols)).1 rfl,
      ← (wrap_eq_iff hy0 hy (hr.trans_le hrows)).1 rfl, decide_eq_true hr, decide_eq_true hc, hbit]
    rfl
  · rintro ⟨hx, hy, hsprite⟩
    rw [getLsbD_spriteRow m hx, Bool.and_eq_true, Bool.and_eq_true, decide_eq_true_eq, decide_eq_true_eq] at hsprite
    obtain ⟨⟨hr, hc⟩, hbit⟩ := hsprite
    exact ⟨_, _, ⟨⟨hr, hc⟩, hbit⟩, (wrap_eq_iff hx0 hx (hc.trans_le hcols)).2 rfl,
      (wrap_eq_iff hy0 hy (hr.trans_le hrows)).2 rfl⟩

/-- No two bits of a sprite land on one pixel: a sprite is no larger than the display. -/
theorem nodup_spriteLandings : (spriteLandings m bytes wide x0 y0).Nodup := by
  have hcols := spriteCols_le_width m wide
  have hrows := spriteRows_le_height hbytes m wide
  refine List.Nodup.map_on ?_ ((List.nodup_range.product List.nodup_range).filter _)
  rintro ⟨r, c⟩ hrc ⟨r', c'⟩ hrc' hland
  obtain ⟨hr, hc⟩ := List.mem_product.1 (List.mem_filter.1 hrc).1
  obtain ⟨hr', hc'⟩ := List.mem_product.1 (List.mem_filter.1 hrc').1
  rw [List.mem_range] at hr hc hr' hc'
  obtain ⟨hx, hy⟩ := Prod.mk.inj hland
  have hlt := Nat.mod_lt (x0 + c') (width_pos m)
  have hlt' := Nat.mod_lt (y0 + r') (height_pos m)
  have hcc := ((wrap_eq_iff hx0 hlt (hc.trans_le hcols)).1 hx).trans
    ((wrap_eq_iff hx0 hlt (hc'.trans_le hcols)).1 rfl).symm
  have hrr := ((wrap_eq_iff hy0 hlt' (hr.trans_le hrows)).1 hy).trans
    ((wrap_eq_iff hy0 hlt' (hr'.trans_le hrows)).1 rfl).symm
  rw [hcc, hrr]

end

/-- Settles O43: R509's loops visit each landing once, and the landings of a row are the bits of the model's. -/
theorem drawingByRowsIsTheLoopOfTheSpec : Obligations.DrawingByRowsIsTheLoopOfTheSpec := by
  intro m b bytes wide x0 y0 hfits hx0 hy0 hbytes
  have hmem {x y : Nat} := mem_spriteLandings (wide := wide) hx0 hy0 hbytes (x := x) (y := y)
  have hlen := length_of_bitmapFits hfits
  obtain ⟨hlen', hpixel, hhit⟩ := foldl_visitPixel (nodup_spriteLandings (wide := wide) hx0 hy0 hbytes) b false
    fun p hp => ⟨(hmem.1 hp).1.trans_le (width_le m), hlen ▸ (hmem.1 hp).2.1⟩
  have hdrawn : (drawn m bytes wide x0 y0 b).length = height m := length_ofRows m _
  rw [writeSpriteLoop_eq_foldl]
  refine Prod.ext (bitmap_ext ((hlen'.trans hlen).trans hdrawn.symm) fun x y hy => ?_) (Bool.eq_iff_iff.2 ?_)
  · rw [hdrawn] at hy
    have hbit : (x, y) ∈ spriteLandings m bytes wide x0 y0
        ↔ (spriteRow m bytes wide x0 y0 y).getLsbD x = true :=
      hmem.trans ⟨fun h => h.2.2, fun h => ⟨lt_width_of_getLsbD_spriteRow h, hy, h⟩⟩
    rw [hpixel, pixel_drawn m b hy, Bool.eq_iff_iff.2 (decide_eq_true_iff.trans hbit)]
  · rw [hhit, collides_iff]
    constructor
    · rintro (h | ⟨⟨x, y⟩, hp, hset⟩)
      · exact absurd h Bool.false_ne_true
      · obtain ⟨hx, hy, hsprite⟩ := hmem.1 hp
        exact ⟨x, y, hx, hy, hset, hsprite⟩
    · rintro ⟨x, y, hx, hy, hset, hsprite⟩
      exact .inr ⟨(x, y), hmem.2 ⟨hx, hy, hsprite⟩, hset⟩

end Sys2Proof.Machine
end

section
/-! SUPPORT. The display instructions but DXYN, and the frame (43_display.md sections 2, 4, 5 and 6): the state each
completes in, pixel by pixel, and a scroll followed by its inverse. -/

namespace Sys2Proof.Machine

variable {s t : State} {i j : Instr}

/-! ### Operations on the active planes (R48, R500) -/

/-- Plane p after an operation on the active planes, whatever p is. -/
theorem State.getD_mapIdx_active (s : State) (f : Nat → Bitmap → Bitmap) (p : Nat) :
    (s.planes.mapIdx fun p b => if s.isActive p then f p b else b).getD p []
      = if p < s.planes.length ∧ s.isActive p = true then f p (s.planes.getD p []) else s.planes.getD p [] := by
  rw [List.getD_eq_getElem?_getD, List.getD_eq_getElem?_getD, List.getElem?_mapIdx]
  rcases Nat.lt_or_ge p s.planes.length with hp | hp
  · simp [hp]
  · simp [not_lt.2 hp]

/-- An operation on the active planes leaves the others. -/
theorem State.getD_mapIdx_inactive (s : State) (f : Nat → Bitmap → Bitmap) {p : Nat} (hp : ¬ s.isActive p = true) :
    (s.planes.mapIdx fun p b => if s.isActive p then f p b else b).getD p [] = s.planes.getD p [] := by
  rw [s.getD_mapIdx_active, if_neg (mt And.right hp)]

/-- The pixels of an active plane; one that is missing reads 0 before and after. -/
theorem State.planePixel_mapActive (s : State) {f : Bitmap → Bitmap} {p x y : Nat} (hp : s.isActive p = true)
    (hnil : pixel (f []) x y = false) :
    (s.mapActive f).planePixel p x y = pixel (f (s.planes.getD p [])) x y := by
  rw [State.planePixel, State.mapActive, State.setPlanes_planes, s.getD_mapIdx_active]
  by_cases hlen : p < s.planes.length
  · rw [if_pos ⟨hlen, hp⟩]
  · rw [if_neg (mt And.left hlen), List.getD_eq_default _ _ (not_lt.1 hlen), hnil, pixel_nil]

/-- What an instruction that moves the pixels of the active planes leaves: pixel (x, y) of active plane p is
`g p x y`, the other planes and every register are kept, and the display is marked updated (R500, R501). -/
def Redraws (s : State) (g : Nat → Nat → Nat → Bool) (t : State) : Prop :=
  (∀ p x y, x < width s.mode → y < height s.mode → (p < s.cfg.numPlanes ∧ s.activePlanes.getLsbD p = true) →
    t.planePixel p x y = g p x y)
  ∧ (∀ p, ¬ (p < s.cfg.numPlanes ∧ s.activePlanes.getLsbD p = true) → t.planes.getD p [] = s.planes.getD p [])
  ∧ t.updated = true ∧ t.updates = s.updates + 1 ∧ RegsKept [] s t ∧ OnlyChanges [.planes, .updated, .updates] s t

/-- An instruction that applies `f` to the active planes, where `op` says what a pixel becomes (R500). -/
theorem Advances.of_mapActive {f : Bitmap → Bitmap} {op : Bitmap → Nat → Nat → Bool}
    (h : exec i s = commit i s (advance 2 (s.mapActive f).markUpdated))
    (hop : ∀ b x y, x < width s.mode → y < height s.mode → pixel (f b) x y = op b x y)
    (hnil : ∀ x y, op [] x y = false) :
    Advances i s 2 (Redraws s fun p => op (s.planes.getD p [])) := by
  refine Advances.intro h rfl fun q => ⟨fun p x y hx hy hp => ?_, fun p hp => ?_, rfl, rfl, fun _ _ => rfl,
    (onlyChanges_setPlanes_markUpdated s _).setPc_setResult q _⟩
  · have hf := hop [] x y hx hy
    rw [hnil] at hf
    exact (s.planePixel_mapActive ((s.isActive_iff p).2 hp) hf).trans (hop _ x y hx hy)
  · exact s.getD_mapIdx_inactive (fun _ => f) (mt (s.isActive_iff p).1 hp)

/-! ### CLS and the scrolls (R503, R512 to R515) -/

/-- Settles O36: every pixel of a blank bitmap is 0. -/
theorem clearZeroesTheActivePlanes : Obligations.ClearZeroesTheActivePlanes :=
  ⟨.of_opcodeOf rfl rfl rfl, fun _ => .of_mapActive (op := fun _ _ _ => false) rfl
    (fun _ _ _ _ _ => pixel_blank _ _ _) fun _ _ => rfl⟩

theorem advances_scd (s : State) (n : Nat) : Advances (.scd n) s 2
    (Redraws s fun p x y => if n ≤ y then s.planePixel p x (y - n) else false) :=
  .of_mapActive (op := fun b x y => if n ≤ y then pixel b x (y - n) else false) rfl
    (fun b _ _ _ hy => pixel_scrolledDown s.mode b n hy) (by simp)

theorem advances_scu (s : State) (n : Nat) : Advances (.scu n) s 2
    (Redraws s fun p x y => if y + n < height s.mode then s.planePixel p x (y + n) else false) :=
  .of_mapActive (op := fun b x y => if y + n < height s.mode then pixel b x (y + n) else false) rfl
    (fun b _ _ _ hy => pixel_scrolledUp s.mode b n hy) (by simp)

theorem advances_scr (s : State) : Advances .scr s 2
    (Redraws s fun p x y => if 4 ≤ x then s.planePixel p (x - 4) y else false) :=
  .of_mapActive (op := fun b x y => if 4 ≤ x then pixel b (x - 4) y else false) rfl
    (fun b _ _ => pixel_scrolledRight s.mode b) (by simp)

theorem advances_scl (s : State) : Advances .scl s 2
    (Redraws s fun p x y => if x + 4 < width s.mode then s.planePixel p (x + 4) y else false) :=
  .of_mapActive (op := fun b x y => if x + 4 < width s.mode then pixel b (x + 4) y else false) rfl
    (fun b _ _ _ => pixel_scrolledLeft s.mode b) (by simp)

/-- Settles O37: the two vertical scrolls, row by row. -/
theorem verticalScrollsMoveRows : Obligations.VerticalScrollsMoveRows := fun s n hn =>
  ⟨.of_opcodeOf rfl (decide_eq_true hn) rfl, advances_scd s n, .of_opcodeOf rfl (decide_eq_true hn) rfl,
    advances_scu s n⟩

/-- Settles O38: the two horizontal scrolls, column by column. -/
theorem horizontalScrollsMoveFourColumns : Obligations.HorizontalScrollsMoveFourColumns := fun s =>
  ⟨.of_opcodeOf rfl rfl rfl, advances_scr s, .of_opcodeOf rfl rfl rfl, advances_scl s⟩

/-! ### A scroll and its inverse (R542) -/

/-- `i` and then `j` complete, and give each pixel of an active plane back where `stays` holds and 0 elsewhere. -/
def Restores (s : State) (i j : Instr) (stays : Nat → Nat → Prop) : Prop :=
  ∃ t u, exec i s = .next t ∧ exec j t = .next u ∧ t.result = some .executed ∧ u.result = some .executed
    ∧ (∀ p x y, (p < s.cfg.numPlanes ∧ s.activePlanes.getLsbD p = true) → x < width s.mode → y < height s.mode →
        (stays x y → u.planePixel p x y = s.planePixel p x y) ∧ (¬ stays x y → u.planePixel p x y = false))
    ∧ (∀ p, ¬ (p < s.cfg.numPlanes ∧ s.activePlanes.getLsbD p = true) → u.planes.getD p [] = s.planes.getD p [])

/-- Two instructions that redraw restore a pixel when the second finds it in what the first has drawn. -/
theorem Restores.of_redraws {g : Nat → Nat → Nat → Bool} {g' : State → Nat → Nat → Nat → Bool}
    {stays : Nat → Nat → Prop} (hpc : s.pc.toNat + 4 ≤ 0xFFFF) (hi : Advances i s 2 (Redraws s g))
    (hj : ∀ t, Advances j t 2 (Redraws t (g' t)))
    (hback : ∀ t : State, t.mode = s.mode → ∀ p x y, x < width s.mode → y < height s.mode →
      (∀ x' y', x' < width s.mode → y' < height s.mode → t.planePixel p x' y' = g p x' y') →
      (stays x y → g' t p x y = s.planePixel p x y) ∧ (¬ stays x y → g' t p x y = false)) :
    Restores s i j stays := by
  obtain ⟨t, ht, htresult, htpc, htpixel, htkept, -, -, -, hsame⟩ := hi.1 (by omega)
  obtain ⟨u, hu, huresult, -, hupixel, hukept, -, -, -, -⟩ := (hj t).1 (by omega)
  have hmode : t.mode = s.mode := hsame .mode (by decide)
  have hcfg : t.cfg = s.cfg := hsame .cfg (by decide)
  have hmask : t.activePlanes = s.activePlanes := hsame .activePlanes (by decide)
  rw [hmode, hcfg, hmask] at hupixel
  rw [hcfg, hmask] at hukept
  refine ⟨t, u, ht, hu, htresult, huresult, fun p x y hp hx hy => ?_, fun p hp => (hukept p hp).trans (htkept p hp)⟩
  rw [hupixel p x y hx hy hp]
  exact hback t hmode p x y hx hy fun x' y' hx' hy' => htpixel p x' y' hx' hy' hp

/-- Settles O45: the second scroll looks a pixel up where the first has put it, or finds an edge. -/
theorem inverseScrollRestoresAllButTheEdge : Obligations.InverseScrollRestoresAllButTheEdge := by
  intro s n hn hpc active restores
  refine ⟨Restores.of_redraws hpc (advances_scd s n) (advances_scu · n)
      fun t hmode p x y hx hy hpixel => ?_,
    Restores.of_redraws hpc (advances_scr s) advances_scl fun t hmode p x y hx hy hpixel => ?_,
    Restores.of_redraws hpc (advances_scl s) advances_scr fun t hmode p x y hx hy hpixel => ?_⟩
  · rw [hmode]
    refine ⟨fun h => ?_, fun h => if_neg h⟩
    rw [if_pos h, hpixel _ _ hx h, if_pos (by omega), Nat.add_sub_cancel]
  · rw [hmode]
    refine ⟨fun h => ?_, fun h => if_neg h⟩
    rw [if_pos h, hpixel _ _ h hy, if_pos (by omega), Nat.add_sub_cancel]
  · refine ⟨fun h => ?_, fun h => if_neg h⟩
    rw [if_pos h, hpixel _ _ (by omega) hy, if_pos (by omega), Nat.sub_add_cancel h]

/-! ### LOW, HIGH and PLANE (R516 to R518, R530) -/

theorem State.planePixel_setMode (s : State) (m : Mode) (p x y : Nat) : (s.setMode m).planePixel p x y = false := by
  rw [State.planePixel, State.setMode_planes]
  rcases Nat.lt_or_ge p s.cfg.numPlanes with hp | hp
  · rw [List.getD_replicate _ hp, pixel_blank]
  · rw [List.getD_eq_default _ _ (by rwa [List.length_replicate]), pixel_nil]

/-- An instruction that sets the mode clears every plane, in the new dimensions (R516). -/
theorem Advances.of_setMode {m : Mode} (h : exec i s = commit i s (advance 2 (s.setMode m).markUpdated)) :
    Advances i s 2 (fun t => t.mode = m ∧ t.planes.length = s.cfg.numPlanes ∧ (∀ b ∈ t.planes, bitmapFits m b = true)
      ∧ (∀ p x y, t.planePixel p x y = false) ∧ t.activePlanes = s.activePlanes ∧ t.updated = true
      ∧ t.updates = s.updates + 1 ∧ RegsKept [] s t ∧ OnlyChanges [.mode, .planes, .updated, .updates] s t) :=
  Advances.intro h rfl fun p => ⟨rfl, List.length_replicate,
    fun _ hb => List.eq_of_mem_replicate hb ▸ blank_fits m, s.planePixel_setMode m, rfl, rfl, rfl,
    fun _ _ => rfl, (onlyChanges_setMode_markUpdated s m).setPc_setResult p _⟩

/-- Settles O39: both set the mode. -/
theorem modeSwitchClearsEveryPlane : Obligations.ModeSwitchClearsEveryPlane := fun _ =>
  ⟨rfl, rfl, rfl, rfl, .of_opcodeOf rfl rfl rfl, .of_setMode rfl, .of_opcodeOf rfl rfl rfl, .of_setMode rfl⟩

/-- Settles O40: the low two bits of X are its remainder by 4. -/
theorem planeSelectsTheActivePlanes : Obligations.PlaneSelectsTheActivePlanes := by
  intro s mask hmask
  refine ⟨.of_opcodeOf rfl (decide_eq_true hmask) rfl, .intro rfl rfl fun p =>
    ⟨?_, fun _ _ => rfl, (onlyChanges_setActivePlanes s _).setPc_setResult p _⟩⟩
  rw [Nat.and_two_pow_sub_one_eq_mod mask 2]
  exact toNat_immByte (by omega)

/-! ### The frame (R540) -/

theorem State.length_toFrame_pixels (s : State) : s.toFrame.pixels.length = width s.mode * height s.mode := by
  simp [State.toFrame, List.length_flatMap, Nat.mul_comm]

/-- Settles O46: the frame lists the palette entries of the colour indices, and a missing plane reads 0. -/
theorem frameMapsThePlaneBitsThroughThePalette : Obligations.FrameMapsThePlaneBitsThroughThePalette := by
  intro s
  refine ⟨rfl, rfl, s.length_toFrame_pixels, fun x y k hx hy hk => ?_, fun hlen x y => ?_⟩
  · have hidx : s.colourIndex x y = k := Fin.ext ((s.val_colourIndex x y).trans hk.symm)
    rw [← hidx]
    exact s.getElem?_toFrame hx hy
  · rw [State.planePixel, List.getD_eq_default _ _ hlen, pixel_nil]

end Sys2Proof.Machine
end

section
/-! SUPPORT. DXYN (43_display.md sections 3 and 7): the sprite over a plane as bits of memory, the planes and the
flag it leaves, and a second draw of the same sprite. -/

namespace Sys2Proof.Machine

variable {s : State} {vx vy : Reg} {n : Nat}

/-! ### The sprite over an active plane (R504 to R507) -/

/-- The sprite bit of the j-th active plane over display pixel (x, y): the column and the row that wrap onto it
from the top-left pixel, and the bit of the plane's block of bytes at I they name. -/
def State.SpriteBitOver (s : State) (vx vy : Reg) (n j x y : Nat) : Prop :=
  let column := (x + width s.mode - (s.reg vx).toNat % width s.mode) % width s.mode
  let row := (y + height s.mode - (s.reg vy).toNat % height s.mode) % height s.mode
  row < (if n = 0 then 16 else n) ∧ column < (if n = 0 then 16 else 8)
    ∧ (s.readByte (s.i.toNat + j * (if n = 0 then 32 else n) + (if n = 0 then 2 * row + column / 8 else row))).getLsbD
        (7 - column % 8) = true

/-- Row y of the sprite DXYN draws on plane p. -/
def State.spriteOver (s : State) (vx vy : Reg) (n p y : Nat) : Row :=
  spriteRow s.mode (s.spriteBlock n p) (isWide n) (s.spriteX vx) (s.spriteY vy) y

theorem isWide_iff {n : Nat} : isWide n = true ↔ n = 0 := beq_iff_eq

theorem spriteCols_isWide (n : Nat) : spriteCols (isWide n) = if n = 0 then 16 else 8 := by
  simp only [spriteCols, isWide_iff]

theorem State.spriteRows_spriteBlock (s : State) (n p : Nat) :
    spriteRows (isWide n) (s.spriteBlock n p) = if n = 0 then 16 else n := by
  simp only [spriteRows, isWide_iff, State.spriteBlock, State.length_readBytes, spriteBytes]
  split <;> rfl

/-- A sprite bit of the j-th active plane is a bit of a byte at I (R505, R507). -/
theorem State.spriteBit_spriteBlock {j p r c : Nat} (hj : s.act[j]? = some p) (hr : r < if n = 0 then 16 else n)
    (hc : c < if n = 0 then 16 else 8) :
    spriteBit (s.spriteBlock n p) (isWide n) r c
      = (s.readByte (s.i.toNat + j * (if n = 0 then 32 else n) + if n = 0 then 2 * r + c / 8 else r)).getLsbD
          (7 - c % 8) := by
  simp only [spriteBit, State.spriteBlock, State.actIndex_of_getElem? hj, isWide_iff, spriteBytes]
  split
  · next h =>
    rw [if_pos h] at hr hc
    rw [State.getD_readBytes _ _ _ _ (by omega)]; rfl
  · next h =>
    rw [if_neg h] at hr
    rw [State.getD_readBytes _ _ _ _ hr]; rfl

/-- The model's row of the sprite has the bits of memory the rules name. -/
theorem State.getLsbD_spriteOver {j p x y : Nat} (hj : s.act[j]? = some p) (hx : x < width s.mode) :
    (s.spriteOver vx vy n p y).getLsbD x = true ↔ s.SpriteBitOver vx vy n j x y := by
  rw [State.spriteOver, getLsbD_spriteRow s.mode hx, State.spriteRows_spriteBlock, spriteCols_isWide,
    Bool.and_eq_true, Bool.and_eq_true, decide_eq_true_eq, decide_eq_true_eq, and_assoc]
  exact and_congr_right fun hr => and_congr_right fun hc => by rw [State.spriteBit_spriteBlock hj hr hc]; rfl

/-! ### The planes and the flag after DXYN (R508, R510) -/

/-- A drawn pixel of an active plane is the old one XOR the sprite's (R509). -/
theorem State.planePixel_drawn {t : State} (ht : t.planes = s.drawnPlanes vx vy n)
    (hlen : s.planes.length = s.cfg.numPlanes) {p x y : Nat} (hp : p ∈ s.act) (hy : y < height s.mode) :
    t.planePixel p x y = (s.planePixel p x y ^^ (s.spriteOver vx vy n p y).getLsbD x) := by
  have hactive := (s.mem_act p).1 hp
  have hexists : p < s.planes.length := hlen ▸ ((s.isActive_iff p).1 hactive).1
  rw [State.planePixel, ht, State.drawnPlanes, s.getD_mapIdx_active, if_pos ⟨hexists, hactive⟩, pixel_drawn _ _ hy]
  rfl

/-- DXYN collides when a pixel of an active plane is 1 under a sprite bit 1 (R508). -/
theorem State.drawCollides_iff : s.drawCollides vx vy n = true ↔ ∃ p x y, p ∈ s.act ∧ x < width s.mode
    ∧ y < height s.mode ∧ s.planePixel p x y = true ∧ (s.spriteOver vx vy n p y).getLsbD x = true := by
  simp only [State.drawCollides, List.any_eq_true, collides_iff]
  exact exists_congr fun p => ⟨fun ⟨hp, x, y, h⟩ => ⟨x, y, hp, h⟩, fun ⟨x, y, hp, h⟩ => ⟨hp, x, y, h⟩⟩

theorem State.drawCollides_iff_spriteBitOver : s.drawCollides vx vy n = true ↔
    ∃ j p x y, s.act[j]? = some p ∧ x < width s.mode ∧ y < height s.mode ∧ s.planePixel p x y = true
      ∧ s.SpriteBitOver vx vy n j x y := by
  rw [State.drawCollides_iff]
  constructor
  · rintro ⟨p, x, y, hp, hx, hy, hpixel, hsprite⟩
    obtain ⟨j, hj⟩ := List.mem_iff_getElem?.1 hp
    exact ⟨j, p, x, y, hj, hx, hy, hpixel, (State.getLsbD_spriteOver hj hx).1 hsprite⟩
  · rintro ⟨j, p, x, y, hj, hx, hy, hpixel, hsprite⟩
    exact ⟨p, x, y, List.mem_of_getElem? hj, hx, hy, hpixel, (State.getLsbD_spriteOver hj hx).2 hsprite⟩

theorem flagByte_eq_one_iff {c : Bool} : flagByte c = 1 ↔ c = true := by cases c <;> decide

/-- DXYN whose data lies in memory, or that reads none (R86, R510). -/
theorem exec_drw (hroom : spriteBytes n * s.act.length = 0 ∨ s.base + spriteBytes n * s.act.length ≤ s.cfg.memSize) :
    exec (.drw vx vy n) s = commit (.drw vx vy n) s (advance 2 (target s (.drw vx vy n))) :=
  congrArg (commit _ s) (State.access_of_admits _ ((s.admits_iff _ _).2 hroom))

/-- DXYN whose data runs out of memory (R86, R510). -/
theorem drw_faults (hpos : 0 < spriteBytes n * s.act.length)
    (hout : s.cfg.memSize < s.base + spriteBytes n * s.act.length) :
    Faults (.drw vx vy n) s (.memFault (max s.base s.cfg.memSize)) :=
  Faults.intro <| congrArg (commit _ s) <| State.access_of_not _ <|
    Bool.eq_false_iff.2 <| mt (s.admits_iff _ _).1 <| not_or.2 ⟨hpos.ne', not_le.2 hout⟩

/-- Settles O41: the sprite's rows are the bits of memory the rules name, XORed in, and VF is their collision. -/
theorem drawXorsTheSpriteAndSetsVfOnCollision : Obligations.DrawXorsTheSpriteAndSetsVfOnCollision := by
  intro s vx vy n hn hlen W H B rows cols L column row place bit after
  have hflag (p : Word) : (((target s (.drw vx vy n)).setPc p).setResult .executed).reg 15
      = flagByte (s.drawCollides vx vy n) := State.reg_setV_same _ vf _
  refine ⟨.of_opcodeOf rfl (decide_eq_true hn) rfl, fun hroom => .intro (exec_drw hroom) rfl fun q =>
    ⟨fun j p x y hj hx hy => ?_, fun p hp => ?_, fun hhit => ?_, fun hmiss => ?_, rfl, rfl,
      fun r hr => State.reg_setV_other _ _ (List.ne_of_not_mem_cons hr),
      (target_onlyChanges s (.drw vx vy n)).setPc_setResult q _⟩, drw_faults⟩
  · rw [State.planePixel_drawn rfl hlen (List.mem_of_getElem? hj) hy, Bool.xor_iff_ne, Ne, Bool.eq_iff_iff,
      State.getLsbD_spriteOver hj hx]
    rfl
  · exact s.getD_mapIdx_inactive _ (mt (s.mem_act p).2 hp)
  · rw [hflag, State.drawCollides_iff_spriteBitOver.2 hhit]; rfl
  · rw [hflag, Bool.eq_false_iff.2 (mt State.drawCollides_iff_spriteBitOver.1 hmiss)]; rfl

/-! ### The same sprite twice (R542) -/

/-- The state a DXYN that completes leaves. -/
def State.afterDraw (s : State) (vx vy : Reg) (n : Nat) : State :=
  ((target s (.drw vx vy n)).setPc (BitVec.ofNat 16 (s.pc.toNat + 2))).setResult .executed

theorem exec_drw_eq_afterDraw (hroom : s.base + spriteBytes n * s.act.length ≤ s.cfg.memSize)
    (hpc : s.pc.toNat + 2 ≤ 0xFFFF) : exec (.drw vx vy n) s = .next (s.afterDraw vx vy n) :=
  (exec_drw (.inr hroom)).trans
    (congrArg (commit _ s) (advance_of_le (s := target s (.drw vx vy n)) hpc))

theorem State.toNat_pc_afterDraw (hpc : s.pc.toNat + 2 ≤ 0xFFFF) :
    (s.afterDraw vx vy n).pc.toNat = s.pc.toNat + 2 := toNat_immAddr hpc

theorem State.reg_vf_afterDraw (s : State) (vx vy : Reg) (n : Nat) :
    (s.afterDraw vx vy n).reg 15 = flagByte (s.drawCollides vx vy n) := State.reg_setV_same _ vf _

section
variable (hvx : vx ≠ 15) (hvy : vy ≠ 15)
include hvx hvy

/-- A draw that leaves its coordinates alone leaves the place of the sprite alone. -/
theorem State.spriteXY_afterDraw : (s.afterDraw vx vy n).spriteX vx = s.spriteX vx
    ∧ (s.afterDraw vx vy n).spriteY vy = s.spriteY vy :=
  ⟨congrArg (·.toNat % width s.mode) (State.reg_setV_other _ _ hvx),
    congrArg (·.toNat % height s.mode) (State.reg_setV_other _ _ hvy)⟩

theorem State.spriteOver_afterDraw (p y : Nat) :
    (s.afterDraw vx vy n).spriteOver vx vy n p y = s.spriteOver vx vy n p y := by
  obtain ⟨hx, hy⟩ := State.spriteXY_afterDraw (s := s) (n := n) hvx hvy
  rw [State.spriteOver, hx, hy]; rfl

/-- The second draw XORs every active plane with the sprite of the first. -/
theorem State.planes_afterDraw_afterDraw (hfits : ∀ b ∈ s.planes, bitmapFits s.mode b = true) :
    ((s.afterDraw vx vy n).afterDraw vx vy n).planes = s.planes := by
  obtain ⟨hx, hy⟩ := State.spriteXY_afterDraw (s := s) (n := n) hvx hvy
  have hplanes : ((s.afterDraw vx vy n).afterDraw vx vy n).planes = (s.drawnPlanes vx vy n).mapIdx fun p b =>
      if s.isActive p then drawn s.mode (s.spriteBlock n p) (isWide n) (s.spriteX vx) (s.spriteY vy) b else b := by
    rw [← hx, ← hy]; rfl
  rw [hplanes, State.drawnPlanes, List.mapIdx_mapIdx]
  refine List.ext_getElem List.length_mapIdx fun p _ hp => ?_
  rw [List.getElem_mapIdx, Function.comp_apply]
  split
  · exact drawn_drawn (hfits _ (List.getElem_mem hp)) _ _ _ _
  · rfl

/-- The second draw finds a 1 under the sprite exactly where the first has turned a 0 into a 1. -/
theorem State.drawCollides_afterDraw_iff (hlen : s.planes.length = s.cfg.numPlanes) :
    (s.afterDraw vx vy n).drawCollides vx vy n = true ↔ ∃ p x y, p ∈ s.act ∧ x < width s.mode ∧ y < height s.mode
      ∧ s.planePixel p x y = false ∧ (s.afterDraw vx vy n).planePixel p x y = true := by
  refine State.drawCollides_iff.trans (exists_congr fun p => exists_congr fun x => exists_congr fun y =>
    and_congr_right fun hp => and_congr_right fun hx => and_congr_right fun hy => ?_)
  rw [State.spriteOver_afterDraw hvx hvy, State.planePixel_drawn rfl hlen hp hy]
  cases s.planePixel p x y <;> cases (s.spriteOver vx vy n p y).getLsbD x <;> decide

end

/-- Settles O44: the second draw has the first one's sprite, so it undoes it, and collides with what it set. -/
theorem drawingTwiceRestoresTheDisplay : Obligations.DrawingTwiceRestoresTheDisplay := by
  intro s vx vy n _ hvx hvy hlen hfits hpc hroom
  have hpc' : (s.afterDraw vx vy n).pc.toNat + 2 ≤ 0xFFFF := by
    rw [State.toNat_pc_afterDraw (by omega)]; exact hpc
  refine ⟨s.afterDraw vx vy n, (s.afterDraw vx vy n).afterDraw vx vy n, exec_drw_eq_afterDraw hroom (by omega),
    exec_drw_eq_afterDraw hroom hpc', rfl, rfl, State.planes_afterDraw_afterDraw hvx hvy hfits, ?_⟩
  rw [State.reg_vf_afterDraw, flagByte_eq_one_iff]
  exact State.drawCollides_afterDraw_iff hvx hvy hlen

end Sys2Proof.Machine
end

section
/-! SUPPORT. The wall-clock timers (44_timers_keys_audio.md section 1): how the steps grow with time, what a
reading and the time remaining are, and the clock that a tick never turns back. -/

namespace Sys2Proof.Machine

variable {tr : TimerRegister} {b : Byte} {t t₁ t₂ : Seconds}

/-! ### The steps elapsed (R601) -/

theorem TimerRegister.rate_pos (hfreq : 0 < tr.tickFrequencyHz) (hmult : 0 < tr.speedMultiplier) : 0 < tr.rate :=
  mul_pos (Nat.cast_pos.2 hfreq) hmult

/-- From the instant of the set on, no negative number of steps has elapsed. -/
theorem TimerRegister.steps_nonneg (hrate : 0 < tr.rate) (ht : tr.lastSetInstant ≤ t) : 0 ≤ tr.steps t := by
  rw [TimerRegister.steps_eq, Rat.le_floor_iff]
  exact mul_nonneg (sub_nonneg.2 ht) hrate.le

theorem TimerRegister.steps_mono (hrate : 0 < tr.rate) (h : t₁ ≤ t₂) : tr.steps t₁ ≤ tr.steps t₂ := by
  rw [TimerRegister.steps_eq, TimerRegister.steps_eq]
  exact Rat.floor_monotone (mul_le_mul_of_nonneg_right (sub_le_sub_right h _) hrate.le)

/-! ### Readings and the time remaining (R601 to R604) -/

/-- R604: a timer never rises between two sets. -/
theorem TimerRegister.toNat_get_anti (hrate : 0 < tr.rate) (hset : tr.lastSetInstant ≤ t₁) (h : t₁ ≤ t₂) :
    (tr.get t₂).toNat ≤ (tr.get t₁).toNat := by
  have hsteps := TimerRegister.steps_mono hrate h
  have h₁ := tr.toNat_get t₁ (TimerRegister.steps_nonneg hrate hset)
  have h₂ := tr.toNat_get t₂ (TimerRegister.steps_nonneg hrate (hset.trans h))
  omega

/-- R602: at the instant of the set the timer reads the value set. -/
theorem TimerRegister.get_set_same (tr : TimerRegister) (b : Byte) (t : Seconds) : (tr.set b t).get t = b := by
  rw [TimerRegister.get, TimerRegister.steps_set_same, TimerRegister.set_lastSetValue, sub_zero, Int.toNat_natCast,
    BitVec.ofNat_toNat, BitVec.setWidth_eq]

theorem TimerRegister.timeRemaining_of_get_ne_zero (h : tr.get t ≠ 0) : tr.timeRemaining t
    = some ((tr.lastSetValue.toNat : Rat) / tr.rate - (t - tr.lastSetInstant)) := if_neg h

theorem TimerRegister.timeRemaining_eq_none_iff : tr.timeRemaining t = none ↔ tr.get t = 0 := by
  refine ⟨fun hnone => ?_, fun h => if_pos h⟩
  by_contra h
  rw [TimerRegister.timeRemaining_of_get_ne_zero h] at hnone
  cases hnone

/-- R603: just after a set to a value other than 0, all of that value's time remains. -/
theorem TimerRegister.timeRemaining_set_same (tr : TimerRegister) (t : Seconds) (hb : b ≠ 0) :
    (tr.set b t).timeRemaining t = some ((b.toNat : Rat) / tr.rate) := by
  rw [TimerRegister.timeRemaining_of_get_ne_zero (by rw [TimerRegister.get_set_same]; exact hb)]
  simp only [TimerRegister.set_lastSetValue, TimerRegister.set_rate, TimerRegister.set_lastSetInstant, sub_self,
    sub_zero]

/-- Settles O47: the steps elapsed are never negative and never fall. -/
theorem timersDecayByWallClockAndClampAtZero : Obligations.TimersDecayByWallClockAndClampAtZero := by
  intro tr b t₁ t₂ hfreq hmult hset h
  have hrate := TimerRegister.rate_pos hfreq hmult
  exact ⟨tr.toNat_get t₁ (TimerRegister.steps_nonneg hrate hset), TimerRegister.toNat_get_anti hrate hset h,
    tr.get_set_same b t₁, rfl, TimerRegister.timeRemaining_eq_none_iff, TimerRegister.timeRemaining_of_get_ne_zero⟩

/-! ### The clock (R600) -/

/-- A part no instruction writes is after a tick what it was when the tick began. -/
theorem step_keeps_begun {s t : State} (h : step s = .next t) (p : Part) (hw : writers s.cfg p = [])
    (hp : p ≠ .halted := by decide) : p.same s.beginTick t := by
  have hfault (w : Word) (k : Fault) : p.same s.beginTick (s.beginTick.takeFault w k) :=
    onlyChanges_takeFault _ w k p (mt List.mem_singleton.1 hp)
  obtain ⟨_, ⟨_, rfl⟩ | ⟨_, rfl⟩ | ⟨w, _, rfl⟩ | ⟨i, rest, _, hexec⟩⟩ := step_cases h
  · exact hfault _ _
  · exact hfault _ _
  · exact hfault _ _
  · exact exec_keeps hexec p hw hp

/-- Settles O14: a tick takes its clock sample when it begins, clamped, and nothing writes the three parts after. -/
theorem clockIsMonotoneAndTheHostsFieldsStay : Obligations.ClockIsMonotoneAndTheHostsFieldsStay := by
  intro s t h
  have hnow : t.now = s.nextNow := step_keeps_begun h .now rfl
  exact ⟨hnow ▸ s.le_nextNow, step_keeps_begun h .cfg rfl, step_keeps_begun h .palette rfl⟩

end Sys2Proof.Machine
end

section
/-! SUPPORT. The timer, audio and keypad instructions (44_timers_keys_audio.md sections 2 to 5): the arm event of
FX18, the key a register names, and the lowest fresh press of FX0A. -/

namespace Sys2Proof.Machine

variable {s : State} {x : Reg} {b : Byte} {k : Fin 16}

/-! ### The keys (R620 to R623) -/

theorem keyOf_of_toNat_eq (hk : b.toNat = k.val) : keyOf b = some k := by
  have h : b.toNat < 16 := by omega
  rw [keyOf, dif_pos h]
  exact congrArg some (Fin.ext hk)

theorem keyOf_of_gt (hb : 15 < b.toNat) : keyOf b = none := dif_neg (by omega)

/-- A skip on key k is `skip_if` on the state of that key (R620, R621). -/
theorem skipOnKey_of_toNat_eq (want : Bool) (hk : b.toNat = k.val) :
    skipOnKey b want s = skipIf (s.keys[k] == want) s := by
  rw [skipOnKey, keyOf_of_toNat_eq hk]

/-- R622: a value above 15 is not reduced modulo 16. -/
theorem skipOnKey_of_gt (want : Bool) (hb : 15 < b.toNat) : skipOnKey b want s = .raised (.keyIndexFault b) := by
  rw [skipOnKey, keyOf_of_gt hb]

/-- Settles O51: each skip is `skip_if` on the key VX names, or raises before it. -/
theorem keySkipsTestOneKey : Obligations.KeySkipsTestOneKey := by
  intro s x
  refine ⟨.of_opcodeOf rfl rfl rfl, .of_opcodeOf rfl rfl rfl, fun k hk => ⟨?_, ?_⟩, fun hb => ⟨?_, ?_⟩⟩
  · exact .intro (congrArg (commit _ s) (skipOnKey_of_toNat_eq true hk)) beq_iff_eq
  · exact .intro (congrArg (commit _ s) (skipOnKey_of_toNat_eq false hk)) beq_iff_eq
  · exact .intro (congrArg (commit _ s) (skipOnKey_of_gt true hb))
  · exact .intro (congrArg (commit _ s) (skipOnKey_of_gt false hb))

/-! ### The key wait (R623, R625) -/

theorem State.isFresh_iff : s.isFresh k = true ↔ s.keys[k] = true ∧ s.prevKeys[k] = false := by
  rw [State.isFresh, Bool.and_eq_true, Bool.not_eq_true']

theorem State.firstFresh_eq_none (h : ∀ k, ¬ s.isFresh k = true) : s.firstFresh = none :=
  List.find?_eq_none.2 fun k _ => h k

/-- The search through the keys in rising order ends at the lowest fresh one. -/
theorem State.firstFresh_eq_some (hk : s.isFresh k = true) (hmin : ∀ j, j < k → ¬ s.isFresh j = true) :
    s.firstFresh = some k := by
  have hlt : k.val < (List.finRange 16).length := by rw [List.length_finRange]; exact k.isLt
  refine List.find?_eq_some_iff_getElem.2 ⟨hk, k.val, hlt, ?_, fun j hj => ?_⟩
  · rw [List.getElem_finRange]; rfl
  · rw [List.getElem_finRange, Bool.not_eq_true', Bool.eq_false_iff]
    exact hmin _ hj

theorem exec_ldVxK_of_none (h : s.firstFresh = none) :
    exec (.ldVxK x) s = .next (s.snapshotKeys.setResult .blocked) := by
  simp only [exec, execLdVxK, h, commit_eq, Effect.settle_blocked]

theorem exec_ldVxK_of_some (h : s.firstFresh = some k) : exec (.ldVxK x) s
    = commit (.ldVxK x) s (advance 2 (s.snapshotKeys.setV x (immByte k.val))) := by
  simp only [exec, execLdVxK, h, immByte]

/-- Settles O52: the search for a fresh key finds none, and blocks, or finds the lowest. -/
theorem keyWaitBlocksUntilAFreshPress : Obligations.KeyWaitBlocksUntilAFreshPress := by
  intro s x fresh
  refine ⟨.of_opcodeOf rfl rfl rfl, fun hnone => ?_, fun k hk hmin => ?_⟩
  · have h := State.firstFresh_eq_none fun k => mt State.isFresh_iff.1 (hnone k)
    exact ⟨_, exec_ldVxK_of_none h, rfl, rfl, rfl, fun _ _ => rfl,
      (onlyChanges_snapshotKeys s).setPc_setResult s.pc _⟩
  · have h := State.firstFresh_eq_some (State.isFresh_iff.2 hk) fun j hj => mt State.isFresh_iff.1 (hmin j hj)
    refine .intro (exec_ldVxK_of_some h) rfl fun p => ⟨?_, rfl, fun r hr => ?_,
      ((onlyChanges_snapshotKeys s).trans (onlyChanges_v _ _)).setPc_setResult p _⟩
    · exact (congrArg BitVec.toNat (State.reg_setV_same _ x _)).trans (toNat_immByte (by omega))
    · exact State.reg_setV_other _ _ (List.ne_of_not_mem_cons hr)

/-! ### The timer instructions (R610 to R614) -/

/-- Settles O48: the reading and the set are the timer's own, at the tick's clock. -/
theorem delayTimerIsReadAndSetAtTheTicksTime : Obligations.DelayTimerIsReadAndSetAtTheTicksTime := fun s _ =>
  ⟨.of_opcodeOf rfl rfl rfl, .of_setV rfl fun _ ht => ht, .of_opcodeOf rfl rfl rfl,
    .intro rfl rfl fun p => ⟨rfl, fun _ _ => rfl, (onlyChanges_setDt s _).setPc_setResult p _⟩⟩

theorem State.armSound_st (s : State) (b : Byte) : (s.armSound b).st = s.st.set b s.now := by
  unfold State.armSound; split <;> rfl

theorem State.armSound_events (s : State) (b : Byte) : (s.armSound b).events
    = if b = 0 then s.events else s.events ++ [⟨s.pattern, (b.toNat : Rat) / s.st.rate⟩] := by
  unfold State.armSound; split <;> rfl

/-- Settles O49: the event's duration is the value over the timer's rate, which is its time remaining. -/
theorem soundTimerArmsTheAudioPort : Obligations.SoundTimerArmsTheAudioPort := by
  intro s x hfreq hmult _
  have hrate : s.st.rate = 60 * s.cfg.speedMult := by
    rw [TimerRegister.rate, hfreq, hmult, Nat.cast_ofNat]
  have hevents := s.armSound_events (s.reg x)
  have hst := s.armSound_st (s.reg x)
  refine ⟨.of_opcodeOf rfl rfl rfl, .intro rfl (State.armSound_pc _ _) fun p =>
    ⟨hst, fun hzero => ?_, fun hne => ⟨?_, ?_⟩, fun r _ => State.reg_armSound _ _ r,
      (onlyChanges_armSound s _).setPc_setResult p _⟩⟩
  · exact hevents.trans (if_pos hzero)
  · rw [if_neg hne, hrate] at hevents
    exact hevents
  · rw [State.setResult_st, State.setPc_st, hst, TimerRegister.timeRemaining_set_same _ _ hne, hrate]

/-! ### AUDIO (R615) -/

theorem State.getElem_patternAtI (s : State) (k : Fin 16) : s.patternAtI[k] = s.readByte (s.base + k.val) := by
  rw [State.patternAtI, Fin.getElem_fin, Vector.getElem_ofFn]

/-- Setting PC and recording the result at the end of an instruction writes no register. -/
theorem RegsKept.setPc_setResult {t : State} {xs : List Reg} (h : RegsKept xs s t) (p : Word) (r : TickResult) :
    RegsKept xs s ((t.setPc p).setResult r) := h

theorem regsKept_setPattern (s : State) (q : Vector Byte 16) : RegsKept [] s (s.setPattern q) := fun _ _ => rfl

/-- Settles O50: the pattern is the sixteen bytes at I, once their access is admitted. -/
theorem audioLoadsTheWholePattern : Obligations.AudioLoadsTheWholePattern :=
  ⟨.of_opcodeOf rfl rfl rfl, fun s => .intro rfl (by decide) rfl fun p =>
    ⟨s.getElem_patternAtI, (regsKept_setPattern s _).setPc_setResult p _,
      (onlyChanges_setPattern s _).setPc_setResult p _⟩⟩

end Sys2Proof.Machine
end

section
/-! SUPPORT. Which fault an instruction can raise (60_exceptions.md section 1): the faults of each shared
operation said once, then each instruction by the operation it is built on; and the tick of a halted core. -/

namespace Sys2Proof.Machine

variable {i : Instr} {s t u : State} {e : Effect} {k : Fault} {a m n : Nat}

/-! ### The faults of the shared operations -/

/-- A `MemFault` at an address that is not below `MEM_SIZE` (R702, R703). -/
def Fault.IsOutside (k : Fault) (s : State) : Prop := ∃ a, k = .memFault a ∧ s.cfg.memSize ≤ a

theorem pcOverflow_of_advance (h : advance n u = .raised k) : k = .pcOverflow := by
  rcases advance_cases n u with ⟨_, hdone⟩ | ⟨_, hover⟩
  · rw [hdone] at h; cases h
  · rw [hover] at h; cases h; rfl

theorem fault_of_access (h : s.access a n e = .raised k) : k.IsOutside s ∨ e = .raised k := by
  cases ha : s.admits a n with
  | false =>
    obtain ⟨_, _, hsize, _⟩ := State.firstBad_spec ha
    rw [State.access_of_not _ ha] at h
    cases h
    exact .inl ⟨_, rfl, hsize⟩
  | true => exact .inr ((State.access_of_admits e ha).symm.trans h)

theorem fault_of_access_advance (h : s.access a n (advance m u) = .raised k) : k.IsOutside s ∨ k = .pcOverflow :=
  (fault_of_access h).imp_right pcOverflow_of_advance

theorem fault_of_skipIf {c : Bool} (h : skipIf c s = .raised k) : k.IsOutside s ∨ k = .pcOverflow := by
  cases c with
  | false => exact .inr (pcOverflow_of_advance ((skipIf_false s).symm.trans h))
  | true => exact fault_of_access_advance ((skipIf_true s).symm.trans h)

theorem fault_of_skipOnKey {b : Byte} {want : Bool} (h : skipOnKey b want s = .raised k) :
    (k = .keyIndexFault b ∧ 15 < b.toNat) ∨ k.IsOutside s ∨ k = .pcOverflow := by
  rcases Nat.lt_or_ge 15 b.toNat with hb | hb
  · rw [skipOnKey_of_gt want hb] at h
    cases h
    exact .inl ⟨rfl, hb⟩
  · rw [skipOnKey_of_toNat_eq (k := ⟨b.toNat, Nat.lt_succ_of_le hb⟩) want rfl] at h
    exact .inr (fault_of_skipIf h)

/-! ### The faults of an instruction, by the operation it is built on -/

/-- A tick whose result is a fault has raised it. -/
theorem raised_of_fault (h : exec i s = .next t) (hr : t.result = some (.fault k)) (he : exec i s = commit i s e) :
    e = .raised k := by
  rcases commit_cases (he.symm.trans h) with ⟨v, _, rfl⟩ | ⟨v, _, rfl⟩ | ⟨k', hk', rfl⟩
  · cases hr
  · cases hr
  · cases hr; exact hk'

/-- R704: a call faults on a full stack only. -/
theorem fault_of_call {nnn : Nat} (h : exec (.call nnn) s = .next t) (hr : t.result = some (.fault k)) :
    k = .stackOverflow ∧ 16 ≤ s.sp.toNat := by
  have he := raised_of_fault h hr rfl
  split at he
  · cases he
  · next hfull => cases he; exact ⟨rfl, Nat.le_of_not_lt hfull⟩

/-- R704, R706: a return faults on an empty stack, or where its advance takes PC above 0xFFFF. -/
theorem fault_of_ret (hsp : s.sp.toNat ≤ 16) (h : exec .ret s = .next t) (hr : t.result = some (.fault k)) :
    (k = .stackUnderflow ∧ s.sp = 0) ∨ k = .pcOverflow := by
  have he := raised_of_fault h hr rfl
  split at he
  · next hempty => cases he; exact .inl ⟨rfl, hempty⟩
  · rw [dif_pos (by omega)] at he
    exact .inr (pcOverflow_of_advance he)

/-- R625: a key wait that faults has found its key. -/
theorem fault_of_ldVxK {x : Reg} (h : exec (.ldVxK x) s = .next t) (hr : t.result = some (.fault k)) :
    k = .pcOverflow := by
  have he := raised_of_fault h hr rfl
  split at he
  · cases he
  · exact pcOverflow_of_advance he

/-- Settles O11: each instruction raises the faults of the operation it is built on and no other. -/
theorem eachFaultComesFromItsInstructions : Obligations.EachFaultComesFromItsInstructions := by
  intro i s t k hsp h hr
  cases i with
  | jp | jpV0 => cases raised_of_fault h hr rfl
  | call nnn =>
    obtain ⟨rfl, hfull⟩ := fault_of_call h hr
    exact ⟨⟨nnn, rfl⟩, BitVec.eq_of_toNat_eq (Nat.le_antisymm hsp hfull)⟩
  | ret =>
    obtain ⟨rfl, hempty⟩ | rfl := fault_of_ret hsp h hr
    · exact ⟨rfl, hempty⟩
    · simp [Instr.mnemonic]
  | ldVxK =>
    obtain rfl := fault_of_ldVxK h hr
    simp [Instr.mnemonic]
  | skp x | sknp x =>
    obtain ⟨rfl, hb⟩ | ⟨a, rfl, ha⟩ | rfl := fault_of_skipOnKey (raised_of_fault h hr rfl)
    · exact ⟨⟨x, by simp, rfl⟩, hb⟩
    · exact ⟨ha, by simp [Instr.mnemonic]⟩
    · simp [Instr.mnemonic]
  | seImm | sneImm | seReg | sneReg =>
    obtain ⟨a, rfl, ha⟩ | rfl := fault_of_skipIf (raised_of_fault h hr rfl)
    · exact ⟨ha, by simp [Instr.mnemonic]⟩
    · simp [Instr.mnemonic]
  | drw | ldILong | ldB | stRegs | ldRegs | stRange | ldRange | audio =>
    obtain ⟨a, rfl, ha⟩ | rfl := fault_of_access_advance (raised_of_fault h hr rfl)
    · exact ⟨ha, by simp [Instr.mnemonic]⟩
    · simp [Instr.mnemonic]
  | scd | scu | cls | scr | scl | low | high | ldImm | addImm | ldReg | orReg | andReg | xorReg | addReg
  | subReg | shr | subn | shl | ldI | rnd | plane | ldVxDt | ldDtVx | ldStVx | addI | ldF | ldHf =>
    obtain rfl := pcOverflow_of_advance (raised_of_fault h hr rfl)
    simp [Instr.mnemonic]

/-! ### A halted core (R710) -/

/-- Settles O6: the first tick answers the fault, and a run stops there. -/
theorem haltedCoreAnswersItsFaultForEver : Obligations.HaltedCoreAnswersItsFaultForEver := by
  intro s r n h
  have hstep : Sys2Proof.core.step s = .fault r.kind := step_of_halted h
  exact ⟨hstep, by simp only [Host.Core.run, hstep]⟩

end Sys2Proof.Machine
end

section
/-! SUPPORT. The host interface (60_exceptions.md section 6): the key mailbox, each case of a turn of the tick
loop, and what an action of the host does to the frame handshake. -/

namespace Sys2Proof.Machine

/-! ### The key mailbox (R722) -/

section
variable {s : State} {k : Keys}

@[simp] theorem pushInto_none (push : Option Keys) : pushInto none push = push := rfl

@[simp] theorem pushInto_some (old : Keys) (push : Option Keys) : pushInto (some old) push = some old := rfl

theorem State.pushKeys_of_full (h : s.mailbox ≠ none) (k : Keys) : s.pushKeys k = s := by
  obtain ⟨old, hold⟩ := Option.ne_none_iff_exists'.1 h
  rw [State.pushKeys, hold, pushInto_some, ← hold]

theorem State.drainedKeys_of_full (h : s.mailbox = some k) : s.drainedKeys = k := by
  simp only [State.drainedKeys, h, pushInto_some]

theorem State.drainedKeys_of_empty (h : s.mailbox = none) : s.drainedKeys = s.nextInput.push.getD s.keys := by
  rw [State.drainedKeys, h, pushInto_none]
  cases s.nextInput.push <;> rfl

/-- Settles O56: the slot keeps its snapshot, and a tick takes what the slot holds after the push. -/
theorem mailboxKeepsTheOlderSnapshot : Obligations.MailboxKeepsTheOlderSnapshot := by
  intro s k
  refine ⟨fun hempty => ?_, fun hfull => State.pushKeys_of_full hfull k, State.drainedKeys_of_full,
    fun hempty hpush => ?_, fun hempty hpush => ?_, rfl⟩
  · rw [State.pushKeys_mailbox, hempty, pushInto_none]
  · rw [State.beginTick_keys, State.drainedKeys_of_empty hempty, hpush, Option.getD_some]
  · rw [State.beginTick_keys, State.drainedKeys_of_empty hempty, hpush, Option.getD_none]

end

/-! ### The cases of a turn (R721, R724, R727, R728) -/

section
variable {l : Loop} {t : State}

theorem Loop.iterate_of_ended (h : l.ended ≠ none) : l.iterate = l := by
  rw [Loop.iterate, if_pos (Option.isSome_iff_ne_none.2 h)]

theorem Loop.iterate_of_closed (he : l.ended = none) (h : l.keysOpen = false ∨ l.framesOpen = false) :
    l.iterate = { l with ended := some .channelClosed } := by
  rcases h with h | h <;> simp [Loop.iterate, he, h]

theorem Loop.iterate_of_audioFailure (he : l.ended = none) (hk : l.keysOpen = true) (hf : l.framesOpen = true)
    (ha : l.audioWorks = false) : l.iterate = { l with ended := some .audioFailure } := by
  simp [Loop.iterate, he, hk, hf, ha]

theorem Loop.turn_of_waits (hw : l.waits = true) : l.turn = l := by
  rw [Loop.turn, if_pos hw]

theorem Loop.turn_of_pending {f : Frame} (hw : l.waits = false) (hp : l.pending = some f) :
    l.turn = l.sendPayload f := by
  simp [Loop.turn, hw, hp]

theorem Loop.turn_of_next (hw : l.waits = false) (hp : l.pending = none) (hs : step l.core = .next t) :
    l.turn = l.afterTick t := by
  simp [Loop.turn, hw, hp, hs]

theorem Loop.turn_of_fault {k : Fault} (hw : l.waits = false) (hp : l.pending = none)
    (hs : step l.core = .fault k) : l.turn = { l with ended := some (.fault k) } := by
  simp [Loop.turn, hw, hp, hs]

theorem Loop.afterTick_of_halted {r : FaultRecord} (h : t.halted = some r) :
    l.afterTick t = { l with core := t, ended := some (.fault r.kind) } := by
  simp only [Loop.afterTick, h]

/-- Settles O58: the ends a turn notices at its head, then the two faults of a tick. -/
theorem closedChannelEndsTheLoopAndKeepsTheCore : Obligations.ClosedChannelEndsTheLoopAndKeepsTheCore := by
  refine fun l => ⟨Loop.iterate_of_ended, Loop.iterate_of_closed, Loop.iterate_of_audioFailure,
    fun he hk hf ha hp hready => ?_, rfl, rfl, rfl⟩
  have hw := Loop.waits_eq_false hready
  rw [Loop.iterate_eq_turn he hk hf ha]
  refine ⟨fun t r hs hr => ?_, fun k hs => Loop.turn_of_fault hw hp hs⟩
  rw [Loop.turn_of_next hw hp hs, Loop.afterTick_of_halted hr]

/-! ### Offers (R723, R725, R726) -/

theorem State.wantsFrame_iff (t : State) :
    t.wantsFrame = true ↔ t.cfg.framePolicy = .everyTick ∨ t.updated = true := by
  cases h : t.cfg.framePolicy <;> simp [State.wantsFrame, h]

/-- R723: a frame the policy wants is signalled, and its payload waits to be sent. -/
theorem Loop.afterTick_of_free (ht : t.halted = none) (hwant : t.wantsFrame = true) (hfree : l.frame = none) :
    l.afterTick t
      = { l with core := t.observe, ready := true, pending := some t.toFrame, heard := l.heard ++ t.events } := by
  simp [Loop.afterTick, ht, Loop.deliver, hwant, Loop.offer_of_free, hfree]

/-- R724: behind a frame not consumed the new one is dropped, signal and payload. -/
theorem Loop.afterTick_of_unconsumed (ht : t.halted = none) (hwant : t.wantsFrame = true) (hframe : l.frame ≠ none) :
    l.afterTick t = { l with core := t.observe, heard := l.heard ++ t.events } := by
  simp [Loop.afterTick, ht, Loop.deliver, hwant, Loop.offer_of_unconsumed, hframe]

theorem Loop.afterTick_of_unwanted (ht : t.halted = none) (hwant : ¬ t.wantsFrame = true) :
    l.afterTick t = { l with core := t, heard := l.heard ++ t.events } := by
  simp [Loop.afterTick, ht, Loop.deliver, hwant]

/-- Settles O57: a turn waits, sends or ticks; a tick's frame is signalled, dropped or not asked for. -/
theorem framePoliciesNeverChangeTheCore : Obligations.FramePoliciesNeverChangeTheCore := by
  intro l t he hk hf ha
  rw [Loop.iterate_eq_turn he hk hf ha]
  refine ⟨fun hd hbusy => Loop.turn_of_waits (l.waits_iff.2 ⟨hd, hbusy⟩), fun hready => ?_⟩
  have hw := Loop.waits_eq_false hready
  refine ⟨fun f hp => Loop.turn_of_pending hw hp, fun hp hs ht => ?_⟩
  rw [Loop.turn_of_next hw hp hs, ← t.wantsFrame_iff]
  by_cases hwant : t.wantsFrame = true
  · by_cases hframe : l.frame = none
    · rw [Loop.afterTick_of_free ht hwant hframe]
      exact ⟨fun _ => ⟨rfl, fun _ => ⟨rfl, rfl, hframe⟩, fun hne => absurd hframe hne⟩,
        fun hno => absurd hwant hno, rfl, he⟩
    · rw [Loop.afterTick_of_unconsumed ht hwant hframe]
      exact ⟨fun _ => ⟨rfl, fun hnone => absurd hnone hframe, fun _ => ⟨rfl, hp, rfl⟩⟩,
        fun hno => absurd hwant hno, rfl, he⟩
  · rw [Loop.afterTick_of_unwanted ht hwant]
    exact ⟨fun hyes => absurd hyes hwant, fun _ => ⟨rfl, rfl, hp, rfl⟩, rfl, he⟩

end

/-! ### The handshake under every action of the host (R723, R724) -/

/-- What action `a` of the host does to the payload that waits and the payload that was sent, `l` becoming `m`. -/
inductive HandshakeStep (l : Loop) (a : HostAction) (m : Loop) : Prop where
  | kept (hpending : m.pending = l.pending) (hframe : m.frame = l.frame)
  | consumed (ha : a = .consumeFrame) (hpending : m.pending = l.pending) (hframe : m.frame = none)
  | sent (f : Frame) (ha : a = .iterate) (hfrom : l.pending = some f) (hw : l.waits = false)
      (hpending : m.pending = none) (hframe : m.frame = some f)
  | offered (ha : a = .iterate) (hidle : l.pending = none) (hfree : l.frame = none)
      (hpending : m.pending = some m.core.toFrame) (hready : m.ready = true) (hframe : m.frame = none)

section
variable (l : Loop)

theorem Loop.act_handshake (a : HostAction) : HandshakeStep l a (l.act a) := by
  cases a with
  | iterate =>
    rcases l.iterate_handshake with ⟨hp, hf⟩ | ⟨f, hfrom, hw, hp, hf⟩ | ⟨hidle, hfree, hf, hr, hp⟩
    · exact .kept hp hf
    · exact .sent f rfl hfrom hw hp hf
    · exact .offered rfl hidle hfree hp hr hf
  | consumeFrame => exact .consumed rfl l.consumeFrame_pending l.consumeFrame_frame
  | pushKeys | takeReady | setPalette | setPalette2 | closeKeys | closeFrames | failAudio => exact .kept rfl rfl

/-- R724: under `no_skip` an engine that does not wait has had its signal taken. -/
theorem Loop.ready_of_not_waits (hw : l.waits = false) (hd : l.core.cfg.delivery = .noSkip) : l.ready = false := by
  by_contra hready
  rw [l.waits_iff.2 ⟨hd, .inl (Bool.eq_true_of_not_eq_false hready)⟩] at hw
  cases hw

theorem Loop.consumeFrame_of_sent (h : l.frame ≠ none) :
    l.consumeFrame = { l with ready := false, frame := none } := by
  obtain ⟨f, hf⟩ := Option.ne_none_iff_exists'.1 h
  simp only [Loop.consumeFrame, hf]

theorem Loop.consumeFrame_of_none (h : l.frame = none) : l.consumeFrame = l := by
  simp only [Loop.consumeFrame, h]

end

/-- Settles O59: each clause is what the four steps of the handshake say of a payload. -/
theorem framePayloadFollowsItsSignal : Obligations.FramePayloadFollowsItsSignal := by
  intro l a f
  have hstep := l.act_handshake a
  refine ⟨fun hnone hnew => ?_, fun hsome => ?_, fun hnone hnew => ?_, fun hsent hnone => ?_,
    fun hexcl hnew => ?_, rfl, l.consumeFrame_of_sent, l.consumeFrame_of_none⟩
  · cases hstep with
    | kept hp _ | consumed _ hp _ => rw [hp, hnone] at hnew; cases hnew
    | sent g _ _ _ hp _ => rw [hp] at hnew; cases hnew
    | offered ha _ _ hp hr _ => rw [hp] at hnew; exact ⟨ha, hr, (Option.some.inj hnew).symm⟩
  · cases hstep with
    | kept hp _ | consumed _ hp _ => exact .inl (hp.trans hsome)
    | sent g ha hfrom _ hp hf => exact .inr ⟨ha, hp, hf.trans (hfrom.symm.trans hsome)⟩
    | offered _ hidle => rw [hidle] at hsome; cases hsome
  · cases hstep with
    | kept _ hf => rw [hf, hnone] at hnew; cases hnew
    | consumed _ _ hf | offered _ _ _ _ _ hf => rw [hf] at hnew; cases hnew
    | sent g ha hfrom hw _ hf => exact ⟨ha, hfrom.trans (hf.symm.trans hnew), l.ready_of_not_waits hw⟩
  · cases hstep with
    | kept _ hf => exact .inl (hf.trans hsent)
    | consumed ha _ hf => exact .inr ⟨ha, hf⟩
    | sent g _ hfrom => rw [hnone] at hfrom; cases hfrom
    | offered _ _ hfree => rw [hfree] at hsent; cases hsent
  · cases hstep with
    | kept hp hf => exact hf.trans (hexcl (hp ▸ hnew))
    | consumed _ _ hf | offered _ _ _ _ _ hf => exact hf
    | sent g _ _ _ hp _ => exact absurd hp hnew

end Sys2Proof.Machine
end

section
/-! SUPPORT. Program load (70_reset_and_hazards.md): which programs are accepted, and the first tick of a core
with no program loaded. -/

namespace Sys2Proof.Machine

variable {c : Config}

/-! ### The memory sizes (R40) -/

theorem Config.memSize_cases (hc : c.wf = true) : c.memSize = 65536 ∨ c.memSize = 4096 := by
  simp only [Config.wf, Bool.and_eq_true, Bool.or_eq_true, beq_iff_eq, and_assoc] at hc
  obtain ⟨hsize, _⟩ := hc
  exact hsize.symm

theorem Config.le_memSize (hc : c.wf = true) : 4096 ≤ c.memSize := by
  rcases Config.memSize_cases hc with h | h <;> omega

/-! ### Load (R802, R804) -/

theorem State.load_accepts_iff {s : State} {prog : List Byte} (hc : s.cfg.wf = true) :
    (∃ t, s.load prog = some t) ↔ 0x200 + prog.length ≤ s.cfg.memSize := by
  have hsize := Config.le_memSize hc
  have hroom : prog.length ≤ s.cfg.memSize - 0x200 ↔ 0x200 + prog.length ≤ s.cfg.memSize := by omega
  simp [State.load, hroom]

theorem Loop.start_of_rejected {t0 : Seconds} {prog : List Byte} (h : (State.resetWith c t0).load prog = none) :
    Loop.start c t0 prog = none := by
  rw [Loop.start, h, Option.map_none]

/-- Settles O55: the admitted sizes leave room above 0x200, and an accepted load is one write of the program. -/
theorem programLoadAcceptsWhatFits : Obligations.ProgramLoadAcceptsWhatFits := by
  refine fun s prog hc => ⟨State.load_accepts_iff hc, Config.memSize_cases hc, fun t hload => ?_,
    fun _ _ => Loop.start_of_rejected⟩
  obtain rfl := State.eq_of_load hload
  exact ⟨fun _ => s.readByte_writeBytes_inside 0x200, fun _ => s.readByte_writeBytes_outside, rfl, fun _ _ => rfl,
    onlyChanges_writeBytes s 0x200 prog⟩

/-! ### The empty program (R806) -/

theorem decodeWord_zero : decodeWord 0 = none := rfl

/-- No font reaches 0x200, so with no program loaded the bytes from there on are 0. -/
theorem readByte_reset_above_fonts (hc : c.wf = true) (t0 : Seconds) {a : Nat} (ha : 0x200 ≤ a) :
    (State.resetWith c t0).readByte a = 0 := by
  obtain ⟨_, _, hsmall, hbig, _⟩ := Config.wf_bounds hc
  exact resetByte_outside (.inr (hsmall.trans ha)) (.inr (hbig.trans ha))

theorem word16_reset_pc (hc : c.wf = true) (t0 : Seconds) : (State.resetWith c t0).word16 0x200 = 0 := by
  rw [State.word16, readByte_reset_above_fonts hc t0 le_rfl, readByte_reset_above_fonts hc t0 (Nat.le_succ _)]
  rfl

theorem fetch_reset (hc : c.wf = true) (t0 : Seconds) : (State.resetWith c t0).fetch = .illegal 0 := by
  have hword : (State.resetWith c t0).word16 (State.resetWith c t0).pc.toNat = 0 := word16_reset_pc hc t0
  have hsize := Config.le_memSize hc
  have hpc : (State.resetWith c t0).pc.toNat + 1 < (State.resetWith c t0).cfg.memSize :=
    show 0x200 + 1 < c.memSize by omega
  rw [State.fetch_illegal hpc (by rw [hword]; decide) (by rw [hword]; exact decodeWord_zero), hword]

/-- Settles O54: the tick at reset fetches the illegal word 0 at 0x200, and its fault stays. -/
theorem emptyProgramTakesDecodeError : Obligations.EmptyProgramTakesDecodeError := fun c t0 hc =>
  ⟨(State.resetWith c t0).beginTick.takeFault 0 .decodeError,
    step_illegal rfl ((State.fetch_beginTick _).trans (fetch_reset hc t0)), rfl,
    step_of_halted (r := ⟨.decodeError, 0, 0x200⟩) rfl⟩

end Sys2Proof.Machine
end
